-- ==== Sys2Proof/Word.lean ====
section
/-!
DEFINITION. The widths of SEG7FB's values (spec/00_scope.md R8) and zero extension (R9).
Every value of the block is unsigned (R9).
-/
namespace Sys2Proof

/-- A byte of the frame buffer: 8 bits (R8 `BYTE_W`, G1). -/
abbrev Byte := BitVec 8

/-- A segment pattern: 7 bits, bit 0 top, 1 upper-right, 2 lower-right, 3 bottom, 4 lower-left,
5 upper-left, 6 middle, 1 = lit (R8 `SEG_W`, spec/20_memory.md R42). -/
abbrev Pattern := BitVec 7

/-- A command word: 9 bits (R8 `CMD_W`). -/
abbrev CmdWord := BitVec 9

/-- The digit field and the `enc_digit` port: 4 bits (R8 `DIGIT_W`). -/
abbrev DigitBits := BitVec 4

/-- The position field: 3 bits (R8 `POS_W`). -/
abbrev PosBits := BitVec 3

/-- The blank-mode field: 2 bits (R8 `MODE_W`). -/
abbrev ModeBits := BitVec 2

/-- `zext_8` of a segment pattern (R9): the byte whose bits 6:0 are the pattern and whose bit 7 is 0. -/
def zext8 (p : Pattern) : Byte := p.setWidth 8

end Sys2Proof
end

