-- ==== Sys2Proof/Syntax.lean ====
section
/-!
DEFINITION. The instructions of SEG7FB: one constructor per row of spec/opcode_table.json, the four commands of the
command port and the two function ports. A bit marked ignored has no effect (spec/30_encoding.md R62), so no
constructor carries one.
-/
namespace Sys2Proof

/-- One row of spec/opcode_table.json each. -/
inductive Instr where
  /-- `NOP`, format Z (R90). -/
  | nop
  /-- `FILL`, format M: the blank mode (R91, R64). -/
  | fill (mode : ModeBits)
  /-- `SETD`, format S: the position and the digit (R92, R65, R66). -/
  | setd (pos : PosBits) (digit : DigitBits)
  /-- `CLRC`, format Z (R94). -/
  | clrc
  /-- `ENC`: the digit on the `enc_digit` port (R68, R81). -/
  | enc (digit : DigitBits)
  /-- `DEC`: the byte on the `dec_byte` port (R68, R83). -/
  | dec (byte : Byte)
deriving DecidableEq, Repr

end Sys2Proof
end

