-- ==== Sys2Proof/WellFormed.lean ====
section
/-!
DEFINITION. Which terms are well formed. An `Instr` holds each operand in a field of exactly its width, so that
every term of it has a word (spec/30_encoding.md R73: decode never fails and every command has a word). Where the
spec refuses an operand is the assembler (R71): there operands are numbers of any size, and a mode above 3, a
digit above 15 and a position above 7 do not fit.
-/
namespace Sys2Proof

/-- A line of assembly (R71), operands as written, and the pseudo-instructions of R72. -/
inductive AsmLine where
  | nop
  | fill (mode : Nat)
  | setd (digit pos : Nat)
  | clrc
  | reset (mode : Nat)
  | blank
  | test
  | show1 (digit : Nat)
  | frame
deriving DecidableEq, Repr

/-- R64, R71: a mode fits its 2-bit field. -/
def modeFits (m : Nat) : Bool := decide (m ≤ 3)

/-- R66, R71: a digit fits its 4-bit field. -/
def digitFits (d : Nat) : Bool := decide (d ≤ 15)

/-- R65, R71: a position fits its 3-bit field. -/
def posFits (p : Nat) : Bool := decide (p ≤ 7)

/-- The operands an assembler accepts (R71): each fits its field. Digits 10..15, positions 0, 6, 7 and modes 2, 3 are
accepted, "because those words exist". -/
def AsmLine.wf : AsmLine → Bool
  | .nop => true
  | .fill m => modeFits m
  | .setd d p => digitFits d && posFits p
  | .clrc => true
  | .reset m => modeFits m
  | .blank => true
  | .test => true
  | .show1 d => digitFits d
  | .frame => true

/-- An instruction is well formed when its operands, as numbers, fit the fields of its word (R61, R68). The operands'
types say so already (`Instr.wf_true` in Laws/Decode.lean): no instruction is shut out. -/
def Instr.wf : Instr → Bool
  | .nop => true
  | .fill m => modeFits m.toNat
  | .setd p d => posFits p.toNat && digitFits d.toNat
  | .clrc => true
  | .enc d => digitFits d.toNat
  | .dec b => decide (b.toNat < 256)

end Sys2Proof
end

