-- ==== Sys2Proof/Decode.lean ====
section
/-!
DEFINITION. The decoder of the command port (spec/30_encoding.md R73), the two function ports seen as words (R68),
the opcode map as match and mask (R63), and the encoder.
-/
namespace Sys2Proof

/-- Where a word is presented: the command port, the encoder's input, the decoder's input (R60, R68). -/
inductive Port where
  | cmd
  | encDigit
  | decByte
deriving DecidableEq, Repr

/-- The width of a port's word (R60). -/
def portWidth : Port → Nat
  | .cmd => 9
  | .encDigit => 4
  | .decByte => 8

/-- Why a number is no word of a port. -/
inductive DecodeReject where
  /-- The number has a bit above the port's width: no such word can be presented (R61, R68). Safe: nothing runs. -/
  | tooWide (port : Port)
deriving DecidableEq, Repr

/-- `op`, bits 8:7 of every format (R61). -/
def cmdOp (w : CmdWord) : BitVec 2 := w.extractLsb' 7 2

/-- `mode`, bits 1:0 of format M (R61). -/
def cmdMode (w : CmdWord) : ModeBits := w.extractLsb' 0 2

/-- `pos`, bits 6:4 of format S (R61). -/
def cmdPos (w : CmdWord) : PosBits := w.extractLsb' 4 3

/-- `digit`, bits 3:0 of format S (R61). -/
def cmdDigit (w : CmdWord) : DigitBits := w.extractLsb' 0 4

/-- The total decoder of the command port (R73). -/
def decodeCmd (w : CmdWord) : Instr :=
  if cmdOp w = 0b00#2 then .nop
  else if cmdOp w = 0b01#2 then .fill (cmdMode w)
  else if cmdOp w = 0b10#2 then .setd (cmdPos w) (cmdDigit w)
  else .clrc

/-- The instruction a number stands for at a port: total, a number that is no word of the port rejected by name. -/
def decode (port : Port) (w : Nat) : Except DecodeReject Instr :=
  if w < 2 ^ portWidth port then
    match port with
    | .cmd => .ok (decodeCmd (BitVec.ofNat 9 w))
    | .encDigit => .ok (.enc (BitVec.ofNat 4 w))
    | .decByte => .ok (.dec (BitVec.ofNat 8 w))
  else .error (.tooWide port)

/-- Canonical word of `FILL` (R62, R91): 0x080 + mode. -/
def fillWord (mode : ModeBits) : CmdWord := 0x080#9 ||| mode.setWidth 9

/-- Canonical word of `SETD` (R92): 0x100 + 16*pos + digit. -/
def setdWord (pos : PosBits) (digit : DigitBits) : CmdWord :=
  0x100#9 ||| (pos.setWidth 9 <<< 4) ||| digit.setWidth 9

/-- The port and the canonical word of an instruction, every ignored bit 0 (R61, R62, R68). -/
def encode : Instr → Port × Nat
  | .nop => (.cmd, 0x000)
  | .fill m => (.cmd, (fillWord m).toNat)
  | .setd p d => (.cmd, (setdWord p d).toNat)
  | .clrc => (.cmd, 0x180)
  | .enc d => (.encDigit, d.toNat)
  | .dec b => (.decByte, b.toNat)

/-- The bits of a command word that its format does not ignore (R61). -/
def usedBits (w : CmdWord) : CmdWord :=
  if cmdOp w = 0b00#2 then 0x180#9
  else if cmdOp w = 0b01#2 then 0x183#9
  else if cmdOp w = 0b10#2 then 0x1FF#9
  else 0x180#9

/-- The canonical spelling of a word: ignored bits 0 (R62). -/
def canonical (w : CmdWord) : CmdWord := w &&& usedBits w

/-- A row of the opcode map (R63): a word selects it when `w & mask = match`. -/
structure OpRow where
  mnemonic : String
  pattern : CmdWord
  mask : CmdWord
deriving DecidableEq, Repr

/-- The opcode map (R63), the four rows of the command port. -/
def opRows : List OpRow :=
  [⟨"NOP", 0x000#9, 0x180#9⟩, ⟨"FILL", 0x080#9, 0x180#9⟩, ⟨"SETD", 0x100#9, 0x180#9⟩, ⟨"CLRC", 0x180#9, 0x180#9⟩]

/-- R63: the word selects the row. -/
def OpRow.selects (r : OpRow) (w : CmdWord) : Bool := decide (w &&& r.mask = r.pattern)

/-- The mnemonic of an instruction as spec/opcode_table.json spells it. -/
def mnemonicOf : Instr → String
  | .nop => "NOP"
  | .fill _ => "FILL"
  | .setd _ _ => "SETD"
  | .clrc => "CLRC"
  | .enc _ => "ENC"
  | .dec _ => "DEC"

/-- The port whose words the table numbers with this many bits: 9 for a command (16 in whole bytes), 4 for the
encoder's digit, 8 for the decoder's byte (spec/opcode_table.json `width`). DESIGN CHOICE, log entry 9. -/
def portOfBits (nbits : Nat) : Option Port :=
  if nbits = 4 then some .encDigit
  else if nbits = 8 then some .decByte
  else if nbits = 9 ∨ nbits = 16 then some .cmd
  else none

/-- The instruction the decoder reads from a table word of `nbits` bits. -/
def decodeTableWord (nbits w : Nat) : Option Instr :=
  match portOfBits nbits with
  | none => none
  | some port =>
    match decode port w with
    | .ok i => some i
    | .error _ => none

end Sys2Proof
end

