-- ==== Sys2Proof/Config.lean ====
section
/-!
DEFINITION. What an implementation fixes (spec/00_scope.md R8, the OPEN parameters) and the free values of
spec/93_implementation_defined.md. Every open parameter and every free value is an opaque constant without a body:
a theorem about it holds whatever its value is.
-/
namespace Sys2Proof

/-- The seven segments of a digit (spec/20_memory.md R42). -/
inductive Segment where
  | top
  | upperRight
  | lowerRight
  | bottom
  | lowerLeft
  | upperLeft
  | middle
deriving DecidableEq, Repr

/-- The bit of a pattern that stands for a segment (R8, R42, D7). -/
def segmentBit : Segment → Nat
  | .top => 0
  | .upperRight => 1
  | .lowerRight => 2
  | .bottom => 3
  | .lowerLeft => 4
  | .upperLeft => 5
  | .middle => 6

/-- A bit that is 1 means the segment is lit (R42, D8); a data byte's bit 7 is no segment. -/
def segmentLit (b : Byte) (g : Segment) : Bool := b.getLsbD (segmentBit g)

/-- The conventional drawing of a digit on seven segments: the default of `SEG_TABLE` (spec/40_segment_encoder.md R80).
PRESUMED by the spec itself (G2, general knowledge): the machine does not use it, the tests do. -/
def defaultGlyph (d : Fin 10) : Pattern :=
  #v[0x3F#7, 0x06#7, 0x5B#7, 0x4F#7, 0x66#7, 0x6D#7, 0x7D#7, 0x07#7, 0x7F#7, 0x6F#7][d]

/-- A segment table: ten 7-bit patterns under the one law that no two digits share one (R80, D9). -/
structure SegTable where
  pat : Fin 10 → Pattern := defaultGlyph
  inj : Function.Injective pat := by decide
deriving Inhabited

/-- The default table of R80, for concrete test vectors only. -/
def defaultTable : SegTable := {}

/-- The display state of the host (spec/10_state.md R26). -/
inductive DisplayState where
  | off        -- powered off
  | showNone   -- blank
  | showAll    -- the test pattern
  | showValue  -- showing a value
deriving DecidableEq, Repr, Inhabited

/-- The four protocol constants the host sends by a transport write (spec/42_host_sequences.md R100). -/
inductive BusCommand where
  | oscOn
  | oscOff
  | blinkOff
  | brightness
deriving DecidableEq, Repr, Inhabited

/-- The transport's answer to one call (R100): a signed status, negative for failure, and the byte that a
successful one-byte read delivers (a write delivers none and the field is not looked at); or no answer, ever (U19). -/
inductive TransportAnswer where
  | returns (status : Int) (byte : Byte)
  | never
deriving DecidableEq, Repr, Inhabited

/-- The segment table of the machine: some injective table (R80, U18). Log entry 1. -/
opaque Config.segTable : SegTable

/-- What a SETD with a digit in 10..15 stores (R82, U3): a free 7-bit value per draw. Log entry 2. -/
opaque Config.freePattern : Nat → Pattern

/-- What `enc_seg` shows for a digit in 10..15 (R82, U1): a free 7-bit value per evaluation. Log entry 2. -/
opaque Config.freeEncPort : Nat → Pattern

/-- `LSV` after `showDecimal` (R25, U11): a free bit per draw. Log entry 10. -/
opaque Config.freeBit : Nat → Bool

/-- `DS` where R111 says unspecified (U12): a free display state per draw. Log entry 11. -/
opaque Config.freeDisplay : Nat → DisplayState

/-- Which of the three powered states `DS` takes where R111 says "unspecified among the three powered states".
Log entry 11. -/
opaque Config.freePowered : Nat → Fin 3

/-- What the transport answers when the state holds no answer for the call (R100, U13). Log entry 12. -/
opaque Config.freeAnswer : Nat → TransportAnswer

/-- Address, bytes and length of the transport write that sends a protocol constant (R100, N9, U17). Log entry 12. -/
opaque Config.setupAddress : BusCommand → Nat
opaque Config.setupBytes : BusCommand → List Byte
opaque Config.setupLength : BusCommand → Nat

/-- `DISP_ADDR`, `READ_ADDR` and the two further arguments of the read call (R100, U17). Log entry 12. -/
opaque Config.displayAddress : Nat
opaque Config.readAddress : Nat
opaque Config.readRegister : Nat
opaque Config.readFlag2 : Nat

/-- `FB_LEN`: bytes in the frame buffer (R8). -/
def Config.frameLength : Nat := 10

end Sys2Proof
end

