-- ==== Sys2Proof/Machine/State.lean ====
section
/-!
DEFINITION. The state of the machine: the five data slots of SEG7FB, the host's LSV and DS, the input pins of the two
function ports, and the plain data that says what the outside world still presents and what it has seen. The memory
view FB[0..9] of the slots is in Ops.lean: the two are one storage (spec/10_state.md R22, spec/20_memory.md R53).
-/
namespace Sys2Proof.Machine

/-- A digit position that exists: 1 (ones, rightmost) to 5 (leftmost) (spec/10_state.md R21). -/
inductive Pos where
  | p1
  | p2
  | p3
  | p4
  | p5
deriving DecidableEq, Repr

/-- What DEC delivers (spec/40_segment_encoder.md R83, R84): a digit (`dec_err` = 0), or `UnknownPatternError` about
the byte (`dec_err` = 1) and then no digit at all. -/
inductive DecOut where
  | digit (d : DigitBits)
  | unknownPattern (byte : Byte)
deriving DecidableEq, Repr

/-- A call of a host function by the application (spec/42_host_sequences.md). Arguments are mathematical integers (R104). -/
inductive HostCall where
  | digitCount (value : Int)            -- R102
  | digitAt (value position : Int)      -- R103
  | setDigit (digit position : Int)     -- R105
  | reset (mode : Int)                  -- R106
  | powerOn (mode : Int)                -- R107
  | powerOff                            -- R108
  | showDecimal (value : Int)           -- R109
  | readDecimal                         -- R112
deriving DecidableEq, Repr

/-- The three setup writes of `powerOn`, in order (R107). -/
inductive SetupStage where
  | oscOn
  | blinkOff
  | brightness
deriving DecidableEq, Repr

/-- One action of the host. The host is one thread (R101): the machine performs the actions of `State.todo` one per step. -/
inductive Action where
  /-- One rising edge of `clk` with these pins (R60, R150, R154). -/
  | edge (rst cmdValid : Bool) (cmd : CmdWord)
  /-- A digit is put on `enc_digit` (R68, R115). -/
  | encDigit (d : DigitBits)
  /-- A byte is put on `dec_byte` (R68, R115). -/
  | decByte (b : Byte)
  /-- The host samples `fb_q` and hands all ten bytes to the transport: the pseudo-instruction `frame` (R72, R115). -/
  | frame
  /-- The application calls a host function. -/
  | call (c : HostCall)
  /-- Within `powerOn mode`: the next setup write (R107). -/
  | setup (stage : SetupStage) (mode : Int)
  /-- Within `powerOn mode`: the final full-buffer write and the return (R107). -/
  | powerOnWrite (mode : Int)
  /-- Step (f) of `showDecimal` and the return (R109). -/
  | showWrite
  /-- The host part of `reset`: LSV is cleared (R106). -/
  | clearLsv
deriving DecidableEq, Repr

/-- A transport call with its arguments (R100). -/
inductive TransportCall where
  | write (address : Nat) (bytes : List Byte) (length : Nat)
  | read (address register flag2 length : Nat)
deriving DecidableEq, Repr

/-- What a host function returns. -/
inductive HostResult where
  /-- No return value (`reset`, `setDigit`: R105, R106). -/
  | nothing
  /-- A transport status, unchanged (R113). -/
  | status (st : Int)
  /-- A count (`digitCount`, R102). -/
  | count (n : Nat)
  /-- A digit (`digitAt`, R103; `readDecimal`, R112). -/
  | digit (d : Nat)
  /-- The sentinel "invalid" of `digitAt` (R103, D25). -/
  | invalid
  /-- `UnknownPatternError` of `readDecimal` (R112). -/
  | unknownPattern (byte : Byte)
  /-- `TransportFailure` of `readDecimal`, with the status (R112, R130). -/
  | transportFailure (st : Int)
deriving DecidableEq, Repr

/-- What stops the machine. The block itself never does (spec/70_reset_and_hazards.md R159). -/
inductive Fault where
  /-- A transport call never returns and the host hangs (R114, U19). Raised by every transport call whose answer is
  `never`. Safe: the machine stops where the hardware waits for ever. -/
  | transportHang
deriving DecidableEq, Repr

/-- What the machine refuses. -/
inductive Refusal where
  /-- An instruction without a meaning. Raised by no arm of `exec`. Safe. -/
  | notModelled (mnemonic : String)
  /-- A negative argument of `showDecimal`, `digitCount` or `digitAt`, where the spec says "the model refuses the call"
  (R110, U4). Raised by those three host calls. Safe. -/
  | negativeArgument
  /-- A host `setDigit` to a position 1..5 with a digit below 0 or above 15: no encoding, "the model refuses the call"
  (R105, U2). Raised by that host call. Safe. -/
  | digitHasNoEncoding
deriving DecidableEq, Repr

/-- The whole state. INVENTORY.md's State section names the rule of each field. -/
structure State where
  /-- `x[1]`, the ones digit's slot, FB[9] (R21, R22). -/
  x1 : Byte
  /-- `x[2]`, FB[7]. -/
  x2 : Byte
  /-- `x[3]`, FB[5]. -/
  x3 : Byte
  /-- `x[4]`, FB[3]. -/
  x4 : Byte
  /-- `x[5]`, FB[1]. -/
  x5 : Byte
  /-- The host's "last shown value" flag (R25). -/
  lsv : Bool
  /-- The host's display state (R26). -/
  ds : DisplayState
  /-- What is on the `enc_digit` pins (R60). -/
  encDigit : DigitBits
  /-- What is on the `dec_byte` pins (R60). -/
  decByte : Byte
  /-- The actions still to be performed, oldest first (R48, R101). The model's own, log entry 6. -/
  todo : List Action
  /-- The transport's answers still to come, oldest first (R100). The model's own, log entry 12. -/
  answers : List TransportAnswer
  /-- The transport calls made, oldest first (R158). The model's own, log entry 19. -/
  calls : List TransportCall
  /-- What the last finished host function returned (R158). The model's own, log entry 19. -/
  result : HostResult
  /-- The counter the free values are indexed by. The model's own, log entry 2. -/
  draws : Nat
deriving DecidableEq, Repr

/-- The machine after hardware reset (spec/10_state.md R31): all slots 0x00, LSV 0, DS OFF. The pins, the lists, the
result and the counter are the model's choice (log entries 2, 6, 7, 12, 19). -/
def State.reset : State where
  x1 := 0x00#8
  x2 := 0x00#8
  x3 := 0x00#8
  x4 := 0x00#8
  x5 := 0x00#8
  lsv := false
  ds := .off
  encDigit := 0#4
  decByte := 0x00#8
  todo := []
  answers := []
  calls := []
  result := .nothing
  draws := 0

end Sys2Proof.Machine
end

