-- ==== Sys2Proof/Machine/Flags.lean ====
section
/-!
DEFINITION. The block has no status flags and no condition codes (spec/10_state.md R24). What stands here is the one
error indication it has, the combinational output `dec_err` (spec/60_exceptions.md R131), and the host's test of a
transport status (spec/42_host_sequences.md R113).
-/
namespace Sys2Proof.Machine

/-- `dec_err` (R83, R131): 1 exactly when the byte is an unknown pattern. -/
def decErr : DecOut → Bool
  | .digit _ => false
  | .unknownPattern _ => true

/-- R113: "`status < 0` denotes failure and `status >= 0` denotes success". Zero is a success. -/
def statusFails (st : Int) : Bool := decide (st < 0)

end Sys2Proof.Machine
end

