-- ==== Sys2Proof/Machine/Operands.lean ====
section
/-!
DEFINITION. The operand forms: the blank mode, the write decoder of the position, and the segment table read forwards
(ENC) and backwards (DEC). The table is an argument here; the machine passes `Config.segTable`
(spec/40_segment_encoder.md R80: "The table is therefore an argument of the model").
-/
namespace Sys2Proof.Machine

/-- `PAT_NONE`, the "all segments off" byte (spec/40_segment_encoder.md R86). -/
def patNone : Byte := 0x00#8

/-- `PAT_ALL`, the "all segments on" byte (R86). -/
def patAll : Byte := 0x7F#8

/-- What a FILL of this mode writes; nothing for the invalid modes 2 and 3 (spec/30_encoding.md R64, R91). -/
def fillPattern (mode : ModeBits) : Option Byte :=
  if mode = 0#2 then some patNone else if mode = 1#2 then some patAll else none

/-- The write decoder (spec/41_frame_buffer.md R93): at most one write enable. -/
def writeDecoder (pos : PosBits) : Option Pos :=
  match pos.toNat with
  | 1 => some .p1
  | 2 => some .p2
  | 3 => some .p3
  | 4 => some .p4
  | 5 => some .p5
  | _ => none

/-- The number of a position, 1 to 5, counted from the right (R14, R21). -/
def posNumber : Pos → Nat
  | .p1 => 1
  | .p2 => 2
  | .p3 => 3
  | .p4 => 4
  | .p5 => 5

/-- The frame-buffer index of a position: 11 - 2*p (R93). -/
def posIndex (p : Pos) : Nat := 11 - 2 * posNumber p

/-- The position whose slot is frame-buffer byte `i`; none for the even bytes, which have no storage (R22), and
outside 0..9. -/
def slotAt (i : Nat) : Option Pos :=
  match i with
  | 9 => some .p1
  | 7 => some .p2
  | 5 => some .p3
  | 3 => some .p4
  | 1 => some .p5
  | _ => none

/-- ENC (R81): the table entry of a digit 0..9; for 10..15 the free value it is given (R82). -/
def encPattern (T : SegTable) (d : DigitBits) (free : Pattern) : Pattern :=
  if h : d.toNat < 10 then T.pat ⟨d.toNat, h⟩ else free

/-- The digit whose pattern, extended to a byte, equals the byte on all eight bits (R83). -/
def decDigit (T : SegTable) (b : Byte) : Option (Fin 10) :=
  (List.finRange 10).find? fun d => decide (zext8 (T.pat d) = b)

/-- DEC (R83): the digit, or `UnknownPatternError` about the byte. -/
def decPattern (T : SegTable) (b : Byte) : DecOut :=
  match decDigit T b with
  | some d => .digit (BitVec.ofNat 4 d.val)
  | none => .unknownPattern b

end Sys2Proof.Machine
end

