-- ==== Sys2Proof/Machine/Ops.lean ====
section
/-!
DEFINITION. The named operations over the state: the slots and their memory view, the reset, the pins of the function
ports and their combinational outputs, the action queue, and one transport call. There is no exception to take and none
to return from (spec/60_exceptions.md R136, R137): an error of the block is the level of an output.
-/
namespace Sys2Proof.Machine

/-- What an instruction or an action answers. -/
abbrev Result := Host.Outcome State Fault Refusal

/-! ### The data slots (spec/10_state.md R21) -/

/-- `x[p]`. -/
def State.slot (s : State) : Pos → Byte
  | .p1 => s.x1
  | .p2 => s.x2
  | .p3 => s.x3
  | .p4 => s.x4
  | .p5 => s.x5

/-- `x[p] <- v` (R10). -/
def State.setSlot (s : State) (p : Pos) (v : Byte) : State :=
  match p with
  | .p1 => { s with x1 := v }
  | .p2 => { s with x2 := v }
  | .p3 => { s with x3 := v }
  | .p4 => { s with x4 := v }
  | .p5 => { s with x5 := v }

/-- All five slots at once (spec/20_memory.md R45). -/
def State.setAllSlots (s : State) (v : Byte) : State :=
  { s with x1 := v, x2 := v, x3 := v, x4 := v, x5 := v }

/-! ### The memory view (R22, spec/20_memory.md R40, R53) -/

/-- A memory image: (index, byte) pairs, canonical when `Memory.wf`. -/
abbrev Memory := List Host.Cell

/-- What an index that no pair lists reads as: 0x00, the reset contents of every byte (R31). -/
def Memory.unlisted : Byte := 0x00#8

/-- Reading one byte of an image. -/
def Memory.read (m : Memory) (i : Nat) : Byte :=
  match m.find? fun c => decide (c.1 = i) with
  | some c => c.2
  | none => Memory.unlisted

/-- The canonical form: indices strictly rising, inside 0..9, no pair equal to what an unlisted index reads as. -/
def Memory.wf (m : Memory) : Bool :=
  decide (m.Pairwise fun a b => a.1 < b.1)
    && m.all fun c => decide (c.1 < Config.frameLength) && decide (c.2 ≠ Memory.unlisted)

/-- `FB[i]` (R22): the slot whose byte it is, the constant 0x00 for an even index. -/
def State.fb (s : State) (i : Fin 10) : Byte :=
  match slotAt i.val with
  | some p => s.slot p
  | none => 0x00#8

/-- FRAME (spec/41_frame_buffer.md R95): all ten bytes, FB[0] first. -/
def State.frame (s : State) : List Byte := (List.finRange 10).map s.fb

/-- `MemRead(a, n)` (R10), for a + n <= 10; no byte outside 0..9 exists (R40). -/
def State.memRead (s : State) (a n : Nat) : Option (List Byte) :=
  if a + n ≤ Config.frameLength then some ((s.frame.drop a).take n) else none

/-- `MemWrite(i, 1, v)` (R10): the slot of an odd index; an even index leaves the state unchanged. -/
def State.memWrite (s : State) (i : Fin 10) (v : Byte) : State :=
  match slotAt i.val with
  | some p => s.setSlot p v
  | none => s

/-- The frame buffer as a canonical image: the slots that are not zero, at their indices, rising. -/
def State.memory (s : State) : Memory :=
  [(1, s.x5), (3, s.x4), (5, s.x3), (7, s.x2), (9, s.x1)].filter fun c => decide (c.2 ≠ Memory.unlisted)

/-- `fb_q` (spec/30_encoding.md R60): byte i at bits 8i+7 down to 8i, combinational. -/
def State.fbQ (s : State) : BitVec 80 :=
  s.fb 9 ++ s.fb 8 ++ s.fb 7 ++ s.fb 6 ++ s.fb 5 ++ s.fb 4 ++ s.fb 3 ++ s.fb 2 ++ s.fb 1 ++ s.fb 0

/-! ### Reset (spec/70_reset_and_hazards.md R150) -/

/-- Hardware reset: the table of R31. What the outside world holds (pins, queue, transport) is not the block's. -/
def State.hardwareReset (s : State) : State :=
  { s.setAllSlots 0x00#8 with lsv := false, ds := .off }

/-! ### The commands' stores -/

/-- FILL's store (R91): all five slots, or nothing for an invalid mode. -/
def State.fill (s : State) (mode : ModeBits) : State :=
  match fillPattern mode with
  | some v => s.setAllSlots v
  | none => s

/-- The counter after an evaluation of ENC: a digit in 10..15 draws a free value (R82). -/
def drawsAfterEnc (d : DigitBits) (n : Nat) : Nat := if d.toNat < 10 then n else n + 1

/-- SETD's store (R92) with the table as an argument: the position is tested first; the slot gets `zext_8(ENC(digit))`. -/
def State.storeDigit (T : SegTable) (s : State) (pos : PosBits) (digit : DigitBits) : State :=
  match writeDecoder pos with
  | some p =>
    { s.setSlot p (zext8 (encPattern T digit (Config.freePattern s.draws))) with
      draws := drawsAfterEnc digit s.draws }
  | none => s

/-! ### The function ports (spec/30_encoding.md R60, R68) -/

/-- A digit is put on `enc_digit`. An evaluation of a digit in 10..15 is a new draw (R82). -/
def State.driveEncoder (s : State) (d : DigitBits) : State :=
  { s with encDigit := d, draws := drawsAfterEnc d s.draws }

/-- A byte is put on `dec_byte`. -/
def State.driveDecoder (s : State) (b : Byte) : State := { s with decByte := b }

/-- `enc_seg` for a given table: combinational from `enc_digit` (R60, R81). -/
def State.encSegOf (T : SegTable) (s : State) : Pattern := encPattern T s.encDigit (Config.freeEncPort s.draws)

/-- `enc_seg`. -/
def State.encSeg (s : State) : Pattern := s.encSegOf Config.segTable

/-- `dec_digit` and `dec_err` as one value: combinational from `dec_byte`, not latched (R83, R131). -/
def State.decOut (s : State) : DecOut := decPattern Config.segTable s.decByte

/-! ### Actions and transport calls -/

/-- Actions put before the ones still to do. -/
def State.push (s : State) (as : List Action) : State := { s with todo := as ++ s.todo }

/-- A new step: the free values of the always-active encoder port are drawn afresh (R82, log entry 2). -/
def State.tick (s : State) : State := { s with draws := s.draws + 1 }

/-- A call enters the list of calls made (R158). -/
def State.logCall (s : State) (c : TransportCall) : State := { s with calls := s.calls ++ [c] }

/-- The transport's next answer (R100): the oldest one the state holds, else a free one. -/
def State.takeAnswer (s : State) : TransportAnswer × State :=
  match s.answers with
  | a :: rest => (a, { s with answers := rest })
  | [] => (Config.freeAnswer s.draws, { s with draws := s.draws + 1 })

/-- One transport call: it is logged, answered, and the caller goes on with the status and the byte; a call that never
returns hangs the host (U19). -/
def State.transact (s : State) (c : TransportCall) (k : Int → Byte → State → Result) : Result :=
  match (s.logCall c).takeAnswer with
  | (.returns st b, t) => k st b t
  | (.never, _) => .fault .transportHang

/-- `TCmd(c)`: the one transport write that sends the protocol constant c (R100). -/
def busCommandCall (c : BusCommand) : TransportCall :=
  .write (Config.setupAddress c) (Config.setupBytes c) (Config.setupLength c)

/-- `TWrite(DISP_ADDR, FRAME, 10)` (R107, R109). -/
def State.frameCall (s : State) : TransportCall :=
  .write Config.displayAddress s.frame Config.frameLength

/-- `TRead(READ_ADDR, reg, flag2, 1)` (R112). -/
def readCall : TransportCall :=
  .read Config.readAddress Config.readRegister Config.readFlag2 1

end Sys2Proof.Machine
end

