-- ==== Sys2Proof/Machine/CommandPort.lean ====
section
/-!
DEFINITION. The meanings of the four commands of the command port (spec/41_frame_buffer.md R90, R91, R92, R94). No
command fails, sets a flag or drives an error output (R133).
-/
namespace Sys2Proof.Machine

/-- NOP (R90): no state change. -/
def execNop (s : State) : Result := .next s

/-- FILL (R91): mode NONE or ALL sets all five slots in one step, modes 2 and 3 are silent no-ops. -/
def execFill (mode : ModeBits) (s : State) : Result := .next (s.fill mode)

/-- SETD (R92): one slot gets the pattern of the digit, by the one encoder table (R87). -/
def execSetd (pos : PosBits) (digit : DigitBits) (s : State) : Result :=
  .next (s.storeDigit Config.segTable pos digit)

/-- CLRC (R94): `MemWrite(0, 1, 0x00)`. -/
def execClrc (s : State) : Result := .next (s.memWrite 0 0x00#8)

end Sys2Proof.Machine
end

