-- ==== Sys2Proof/Machine/FunctionPorts.lean ====
section
/-!
DEFINITION. The meanings of the two function ports (spec/40_segment_encoder.md R81 to R84). They are combinational and
always active (spec/30_encoding.md R68): presenting a value on the port is the whole effect, and the answer is the
output `State.encSeg` or `State.decOut` of the next state. No slot, flag or latch changes (R81, R83, R131).
-/
namespace Sys2Proof.Machine

/-- ENC (R81, R82): the digit stands on `enc_digit`, `enc_seg` follows. -/
def execEnc (digit : DigitBits) (s : State) : Result := .next (s.driveEncoder digit)

/-- DEC (R83, R84): the byte stands on `dec_byte`, `dec_digit` and `dec_err` follow. -/
def execDec (byte : Byte) (s : State) : Result := .next (s.driveDecoder byte)

end Sys2Proof.Machine
end

