-- ==== Sys2Proof/Machine/Dispatch.lean ====
section
/-! DEFINITION. One arm per constructor of Instr, each a direct call of its meaning. -/
namespace Sys2Proof.Machine

def exec (i : Instr) (s : State) : Host.Outcome State Fault Refusal :=
  match i with
  | .nop => Sys2Proof.Machine.execNop s
  | .fill mode => Sys2Proof.Machine.execFill mode s
  | .setd pos digit => Sys2Proof.Machine.execSetd pos digit s
  | .clrc => Sys2Proof.Machine.execClrc s
  | .enc digit => Sys2Proof.Machine.execEnc digit s
  | .dec byte => Sys2Proof.Machine.execDec byte s

end Sys2Proof.Machine
end

