-- ==== Sys2Proof/Machine/HostSequences.lean ====
section
/-!
DEFINITION. The host around the block (spec/42_host_sequences.md): digit extraction, the host functions as lists of
actions, the display state, and how one action is performed. Each host function is its pseudocode; a sequence puts
its next actions at the head of `State.todo`, so that each command, each transport call and each host update is one step.
-/
namespace Sys2Proof.Machine

/-! ### Digit extraction (R102, R103) -/

/-- The loop of `digitCount` with a bound on its turns. -/
def countLoop : Nat → Nat → Nat
  | 0, _ => 0
  | fuel + 1, v => if v = 0 then 0 else countLoop fuel (v / 10) + 1

/-- `digitCount` (R102). A value v takes at most v turns (`digitCount_step` in Laws/Digits.lean). -/
def digitCount (v : Nat) : Nat := countLoop v v

/-- `digitAt` (R103): `none` is the sentinel "invalid". -/
def digitAt (v i : Nat) : Option Nat :=
  if v = 0 ∨ digitCount v < i + 1 then none else some (v / 10 ^ i % 10)

/-! ### The display state (R111) -/

/-- A powered display state. -/
def poweredState (k : Fin 3) : DisplayState :=
  match k with
  | 0 => .showNone
  | 1 => .showAll
  | 2 => .showValue

/-- `DS` after `powerOn(mode)` returned a status (R111); `n` indexes the free choice of the unspecified rows. -/
def displayAfterPowerOn (mode st : Int) (n : Nat) : DisplayState :=
  if statusFails st then Config.freeDisplay n
  else if mode = 0 then .showNone
  else if mode = 1 then .showAll
  else poweredState (Config.freePowered n)

/-- `DS` after `powerOff()` returned a status (R111). -/
def displayAfterPowerOff (st : Int) (old : DisplayState) : DisplayState :=
  if statusFails st then old else .off

/-- `DS` after `showDecimal` returned a status (R111). -/
def displayAfterShow (st : Int) (n : Nat) : DisplayState :=
  if statusFails st then Config.freeDisplay n else .showValue

/-! ### Issuing commands (R105, R106, R107) -/

/-- A command presented for one edge. -/
def issue (w : CmdWord) : Action := .edge false true w

/-- The FILL of a blank mode; a mode that does not fit the field is invalid in the same way as 2 and 3 and no FILL is
issued for it (R106). -/
def fillActions (mode : Int) : List Action :=
  if 0 ≤ mode ∧ mode ≤ 3 then [issue (fillWord (BitVec.ofInt 2 mode))] else []

/-! ### The host functions -/

/-- `digitCount` called by the application; a negative value is refused (U4). -/
def callDigitCount (value : Int) (s : State) : Result :=
  if value < 0 then .refused .negativeArgument
  else .next { s with result := .count (digitCount value.toNat) }

/-- `digitAt` called by the application; a negative argument is refused (U4). -/
def callDigitAt (value position : Int) (s : State) : Result :=
  if value < 0 ∨ position < 0 then .refused .negativeArgument
  else
    match digitAt value.toNat position.toNat with
    | some d => .next { s with result := .digit d }
    | none => .next { s with result := .invalid }

/-- `setDigit` (R105): a position outside 1..5 issues nothing, whatever the digit. -/
def callSetDigit (digit position : Int) (s : State) : Result :=
  if 1 ≤ position ∧ position ≤ 5 then
    if 0 ≤ digit ∧ digit ≤ 15 then
      .next ({ s with result := .nothing }.push
        [issue (setdWord (BitVec.ofInt 3 position) (BitVec.ofInt 4 digit))])
    else .refused .digitHasNoEncoding
  else .next { s with result := .nothing }

/-- `reset` (R106): the FILL, then LSV is cleared, whatever the mode (D22). -/
def callReset (mode : Int) (s : State) : Result :=
  .next ({ s with result := .nothing }.push (fillActions mode ++ [Action.clearLsv]))

/-- `powerOn` (R107) begins with the first setup write. -/
def callPowerOn (mode : Int) (s : State) : Result :=
  .next (s.push [.setup .oscOn mode])

/-- The protocol constant a setup stage sends. -/
def setupCommand : SetupStage → BusCommand
  | .oscOn => .oscOn
  | .blinkOff => .blinkOff
  | .brightness => .brightness

/-- What follows a setup write that succeeded (R107). -/
def afterSetup (stage : SetupStage) (mode : Int) : List Action :=
  match stage with
  | .oscOn => [.setup .blinkOff mode]
  | .blinkOff => [.setup .brightness mode]
  | .brightness => fillActions mode ++ [Action.powerOnWrite mode]

/-- `powerOn` returns a status (R107, R111). -/
def powerOnReturns (mode st : Int) (s : State) : Result :=
  .next { s with result := .status st, ds := displayAfterPowerOn mode st s.draws, draws := s.draws + 1 }

/-- One setup write (R107): a failure ends `powerOn` at once and is its status. -/
def setupStep (stage : SetupStage) (mode : Int) (s : State) : Result :=
  s.transact (busCommandCall (setupCommand stage)) fun st _ t =>
    if statusFails st then powerOnReturns mode st t else .next (t.push (afterSetup stage mode))

/-- The final full-buffer write of `powerOn` (R107). -/
def powerOnWriteStep (mode : Int) (s : State) : Result :=
  s.transact s.frameCall fun st _ t => powerOnReturns mode st t

/-- `powerOff` (R108): one transport write, no block command. -/
def callPowerOff (s : State) : Result :=
  s.transact (busCommandCall .oscOff) fun st _ t =>
    .next { t with result := .status st, ds := displayAfterPowerOff st t.ds }

/-- Steps (d) and (e) of `showDecimal` (R109): exactly 10 is neither branch. -/
def digitCalls (v : Nat) : List Action :=
  if v < 10 then [.call (.setDigit v 1)]
  else if 10 < v then
    (List.range (digitCount v)).filterMap fun i =>
      (digitAt v i).map fun d => Action.call (.setDigit d (i + 1 : Nat))
  else []

/-- `showDecimal` (R109), steps (a) to (f). A negative value is refused (U4). -/
def callShowDecimal (value : Int) (s : State) : Result :=
  if value < 0 then .refused .negativeArgument
  else
    .next (s.push
      ([Action.call (.powerOn 0), .call (.reset 0), issue 0x180#9] ++ digitCalls value.toNat ++ [Action.showWrite]))

/-- Step (f) of `showDecimal` (R109): the full-buffer write, LSV unspecified (R25), its status returned unchanged. -/
def showWriteStep (s : State) : Result :=
  s.transact s.frameCall fun st _ t =>
    .next { t with
      result := .status st, ds := displayAfterShow st t.draws, lsv := Config.freeBit t.draws, draws := t.draws + 1 }

/-- What `readDecimal` makes of the decoder's answer (R112). -/
def readResult : DecOut → HostResult
  | .digit d => .digit d.toNat
  | .unknownPattern b => .unknownPattern b

/-- `readDecimal` (R112): the status is tested first; then the byte is put on the decoder. -/
def callReadDecimal (s : State) : Result :=
  s.transact readCall fun st b t =>
    if statusFails st then .next { t with result := .transportFailure st }
    else .next { t.driveDecoder b with result := readResult (t.driveDecoder b).decOut }

/-- The pseudo-instruction `frame` (R72): the host hands the frame to the transport and has its status. -/
def frameStep (s : State) : Result :=
  s.transact s.frameCall fun st _ t => .next { t with result := .status st }

/-- A call of the application. -/
def hostCall (c : HostCall) (s : State) : Result :=
  match c with
  | .digitCount v => callDigitCount v s
  | .digitAt v i => callDigitAt v i s
  | .setDigit d p => callSetDigit d p s
  | .reset m => callReset m s
  | .powerOn m => callPowerOn m s
  | .powerOff => callPowerOff s
  | .showDecimal v => callShowDecimal v s
  | .readDecimal => callReadDecimal s

/-! ### One step -/

/-- One rising edge (spec/70_reset_and_hazards.md R150, R152, R154): reset wins over a command; `cmd_valid` = 0 is NOP (D31). -/
def clockEdge (rst cmdValid : Bool) (cmd : CmdWord) (s : State) : Result :=
  if rst then .next s.hardwareReset
  else if cmdValid then exec (decodeCmd cmd) s
  else exec .nop s

/-- One action. -/
def perform (a : Action) (s : State) : Result :=
  match a with
  | .edge rst valid w => clockEdge rst valid w s
  | .encDigit d => exec (.enc d) s
  | .decByte b => exec (.dec b) s
  | .frame => frameStep s
  | .call c => hostCall c s
  | .setup stage m => setupStep stage m s
  | .powerOnWrite m => powerOnWriteStep m s
  | .showWrite => showWriteStep s
  | .clearLsv => .next { s with lsv := false }

/-- One step: the oldest action of the queue; with nothing presented, an edge with `cmd_valid` = 0. -/
def performNext (s : State) : Result :=
  match s.todo with
  | [] => clockEdge false false 0#9 s.tick
  | a :: rest => perform a { s.tick with todo := rest }

/-- The action that presents a word on a port. -/
def portAction (port : Port) (w : Nat) : Action :=
  match port with
  | .cmd => issue (BitVec.ofNat 9 w)
  | .encDigit => .encDigit (BitVec.ofNat 4 w)
  | .decByte => .decByte (BitVec.ofNat 8 w)

/-- The action that presents a table word of `nbits` bits on its port (`portOfBits`, log entry 9); none for a number that
is no word of a port. -/
def wordAction (nbits w : Nat) : Option Action :=
  match portOfBits nbits with
  | some port => if w < 2 ^ portWidth port then some (portAction port w) else none
  | none => none

/-- The state with that word as the next thing the host presents. -/
def presentWord (s : State) (nbits w : Nat) : State :=
  match wordAction nbits w with
  | some a => s.push [a]
  | none => s

end Sys2Proof.Machine
end

