-- ==== Sys2Proof/Machine/Step.lean ====
section
/-! DEFINITION. One step of the machine, and the placing of a word where the next step takes it. -/
namespace Sys2Proof.Machine

/-- One step: the host's next action (spec/70_reset_and_hazards.md R154, R158). -/
def step (s : State) : Host.Outcome State Fault Refusal := performNext s

/-- The state in which the table word is presented on its port in the very next step. -/
def State.withFetchWord (s : State) (nbits w : Nat) : State := presentWord s nbits w

end Sys2Proof.Machine
end

