-- ==== Sys2Proof/Machine/Assembler.lean ====
section
/-!
DEFINITION. The assembler (spec/30_encoding.md R71) and its pseudo-instructions (R72): text to lines, lines to the
actions by which the host presents them. What R71 leaves open of the text (spaces, the comma) is log entry 23.
-/
namespace Sys2Proof.Machine

/-- Why a line is refused. -/
inductive AsmReject where
  /-- An operand does not fit its field (R71). -/
  | operandTooWide
  /-- The text is no line of R71 or R72. -/
  | notALine
deriving DecidableEq, Repr

/-- A command at the port, canonical word (R62). -/
def command (i : Instr) : Action := issue (BitVec.ofNat 9 (encode i).2)

/-- The actions of a line whose operands fit (R71, R72). -/
def expand : AsmLine → List Action
  | .nop => [command .nop]
  | .fill m => [command (.fill (BitVec.ofNat 2 m))]
  | .setd d p => [command (.setd (BitVec.ofNat 3 p) (BitVec.ofNat 4 d))]
  | .clrc => [command .clrc]
  | .reset m => [command (.fill (BitVec.ofNat 2 m))]
  | .blank => [command (.fill 0#2)]
  | .test => [command (.fill 1#2)]
  | .show1 d => [command (.fill 0#2), command .clrc, command (.setd 1#3 (BitVec.ofNat 4 d))]
  | .frame => [.frame]

/-- A line to its actions; the assembler refuses an operand that does not fit (R71). -/
def assemble (l : AsmLine) : Except AsmReject (List Action) :=
  if l.wf then .ok (expand l) else .error .operandTooWide

/-! ### Text -/

/-- The value of a digit character in base 10 or 16. -/
def digitValue (base : Nat) (c : Char) : Option Nat :=
  let n := c.toNat
  let v := if 48 ≤ n ∧ n ≤ 57 then n - 48 else if 97 ≤ n ∧ n ≤ 102 then n - 87 else 16
  if v < base then some v else none

/-- The number a run of digit characters stands for. -/
def numberFrom (base : Nat) : Nat → List Char → Option Nat
  | acc, [] => some acc
  | acc, c :: cs =>
    match digitValue base c with
    | some v => numberFrom base (acc * base + v) cs
    | none => none

/-- A number: decimal, or hexadecimal after `0x` (R71). -/
def parseNumber (cs : List Char) : Option Nat :=
  match cs with
  | [] => none
  | '0' :: 'x' :: c :: rest => numberFrom 16 0 (c :: rest)
  | c :: rest => numberFrom 10 0 (c :: rest)

/-- A mode operand: `none`, `all`, or a number (R71). -/
def parseMode (cs : List Char) : Option Nat :=
  if cs = ['n', 'o', 'n', 'e'] then some 0
  else if cs = ['a', 'l', 'l'] then some 1
  else parseNumber cs

/-- Words and commas of a line; `cur` is the word being read, last character first. -/
def tokensFrom : List Char → List Char → List (List Char)
  | cur, [] => if cur = [] then [] else [cur.reverse]
  | cur, c :: cs =>
    let before := if cur = [] then [] else [cur.reverse]
    if c = ';' then before
    else if c = ' ' ∨ c = '\t' then before ++ tokensFrom [] cs
    else if c = ',' then before ++ [[',']] ++ tokensFrom [] cs
    else tokensFrom (c.toLower :: cur) cs

/-- A line of text: case-insensitive mnemonics, a comment from `;` on (R71). An empty line is no command. -/
def parseLine (text : List Char) : Except AsmReject (Option AsmLine) :=
  match tokensFrom [] text with
  | [] => .ok none
  | [['n', 'o', 'p']] => .ok (some .nop)
  | [['c', 'l', 'r', 'c']] => .ok (some .clrc)
  | [['b', 'l', 'a', 'n', 'k']] => .ok (some .blank)
  | [['t', 'e', 's', 't']] => .ok (some .test)
  | [['f', 'r', 'a', 'm', 'e']] => .ok (some .frame)
  | [['f', 'i', 'l', 'l'], m] =>
    match parseMode m with
    | some n => .ok (some (.fill n))
    | none => .error .notALine
  | [['r', 'e', 's', 'e', 't'], m] =>
    match parseMode m with
    | some n => .ok (some (.reset n))
    | none => .error .notALine
  | [['s', 'h', 'o', 'w', '1'], d] =>
    match parseNumber d with
    | some n => .ok (some (.show1 n))
    | none => .error .notALine
  | [['s', 'e', 't', 'd'], d, [','], p] =>
    match parseNumber d, parseNumber p with
    | some n, some k => .ok (some (.setd n k))
    | _, _ => .error .notALine
  | _ => .error .notALine

/-- A line of text to its actions: none for an empty line. -/
def assembleText (text : List Char) : Except AsmReject (List Action) :=
  match parseLine text with
  | .ok (some l) => assemble l
  | .ok none => .ok []
  | .error e => .error e

/-- A program, one command per line (R71), to the actions of its lines in order; the first line refused refuses it. -/
def assembleProgram : List (List Char) → Except AsmReject (List Action)
  | [] => .ok []
  | line :: rest =>
    match assembleText line with
    | .error e => .error e
    | .ok as =>
      match assembleProgram rest with
      | .error e => .error e
      | .ok bs => .ok (as ++ bs)

end Sys2Proof.Machine
end

