-- ==== Sys2Proof/Safety.lean ====
section
/-!
DEFINITION. What counts as a safe run, and the predicates the statements use: the invariants I2 and I3 of
spec/41_frame_buffer.md R96, and two states that agree but for one field.
-/
namespace Sys2Proof.Machine

/-- `k` steps, stopping at the first fault or refusal: `Host.Core.run` of this machine (`runSteps_eq_run` in
Laws/Step.lean). -/
def runSteps : Nat → State → Result
  | 0, s => .next s
  | k + 1, s =>
    match step s with
    | .next t => runSteps k t
    | .fault r => .fault r
    | .refused r => .refused r

/-- `k` steps from `s` end in a next state: no fault, no refusal. -/
def SafeFor (k : Nat) (s : State) : Prop := ∃ t, runSteps k s = .next t

/-- Bit 7 of every data slot is 0 (R96 I2). -/
def BitSevenClear (s : State) : Prop := ∀ p, (s.slot p).getLsbD 7 = false

/-- One of the twelve values of R96 I3. -/
def KnownByte (T : SegTable) (b : Byte) : Prop :=
  b = patNone ∨ b = patAll ∨ ∃ d, b = zext8 (T.pat d)

/-- Every slot holds one of the twelve values (R96 I3). -/
def SlotsKnown (s : State) : Prop := ∀ p, KnownByte Config.segTable (s.slot p)

/-- Not a SETD that stores a digit outside 0..9 (R96 I3). -/
def KnownCommand (i : Instr) : Prop :=
  match i with
  | .setd pos digit => writeDecoder pos = none ∨ digit.toNat < 10
  | .nop => True
  | .fill _ => True
  | .clrc => True
  | .enc _ => True
  | .dec _ => True

/-- An action that leads to no SETD of a digit outside 0..9. -/
def KnownAction (a : Action) : Prop :=
  match a with
  | .edge _ valid w => valid = true → KnownCommand (decodeCmd w)
  | .call (.setDigit digit position) => 1 ≤ position → position ≤ 5 → digit ≤ 9
  | _ => True

/-- No pending action leads to a SETD of a digit outside 0..9. -/
def KnownQueue (s : State) : Prop := ∀ a ∈ s.todo, KnownAction a

/-- The five slots of two states agree. -/
def SameSlots (s t : State) : Prop := ∀ p, s.slot p = t.slot p

/-- The host and pin fields of two states agree: all that no command of the command port touches. -/
def SameOutside (s t : State) : Prop :=
  s.lsv = t.lsv ∧ s.ds = t.ds ∧ s.encDigit = t.encDigit ∧ s.decByte = t.decByte ∧ s.todo = t.todo ∧
    s.answers = t.answers ∧ s.calls = t.calls ∧ s.result = t.result

/-- Two states agree on everything but LSV. -/
def SameButLsv (s t : State) : Prop := { s with lsv := t.lsv } = t

/-- Two states agree on everything but DS. -/
def SameButDs (s t : State) : Prop := { s with ds := t.ds } = t

end Sys2Proof.Machine
end

