-- ==== Sys2Proof/Certificates/Slice0/Obligations.lean ====
section
/-!
DEFINITION. The statements for the provers, from the numbered rules of spec/. Each says what an instruction or the machine
does, for every state unless a premise says otherwise. A statement about a free value holds whatever the value is.
-/

open Sys2Proof Sys2Proof.Machine

/-! ### Encoding -/

/-- Decoding the encoded word of any instruction, at its port, gives the instruction back (R73 for the command port, R68 for
the two function ports). -/
def Obligations.DecoderReadsEncodedInstruction : Prop :=
  ∀ i : Instr, decode (encode i).1 (encode i).2 = .ok i

/-- R73: the decoder of the command port field by field, and the encoder as its inverse on canonical words. The fields are
read off the word as a number: bits 8:7, 1:0, 6:4 and 3:0. -/
def Obligations.CommandDecoderIsTotalAndInverse : Prop :=
  (∀ w : CmdWord,
    (w.toNat / 128 = 0 → decodeCmd w = .nop) ∧
    (w.toNat / 128 = 1 → decodeCmd w = .fill (BitVec.ofNat 2 (w.toNat % 4))) ∧
    (w.toNat / 128 = 2 →
      decodeCmd w = .setd (BitVec.ofNat 3 (w.toNat / 16 % 8)) (BitVec.ofNat 4 (w.toNat % 16))) ∧
    (w.toNat / 128 = 3 → decodeCmd w = .clrc)) ∧
  (∀ w : CmdWord, canonical w = w → encode (decodeCmd w) = (.cmd, w.toNat)) ∧
  (∀ i : Instr, (encode i).1 = .cmd → decodeCmd (BitVec.ofNat 9 (encode i).2) = i)

/-- R62: words that agree in `op` and in the bits their format uses mean the same command. -/
def Obligations.IgnoredBitsHaveNoEffect : Prop :=
  ∀ w v : CmdWord, w.toNat / 128 = v.toNat / 128 →
    (w.toNat / 128 = 1 → w.toNat % 4 = v.toNat % 4) →
    (w.toNat / 128 = 2 → w.toNat % 128 = v.toNat % 128) →
    decodeCmd w = decodeCmd v

/-- R63: each word selects the one row whose match it equals under the mask. That `cmd_valid` = 0 is NOP whatever the word is
the sentence of R63 that the spec marks as its own choice, D31. -/
def Obligations.OpcodeMapSelectsByMatchAndMask : Prop :=
  ∀ w : CmdWord,
    (w &&& 0x180#9 = 0x000#9 ↔ decodeCmd w = .nop) ∧
    (w &&& 0x180#9 = 0x080#9 ↔ ∃ mode, decodeCmd w = .fill mode) ∧
    (w &&& 0x180#9 = 0x100#9 ↔ ∃ pos digit, decodeCmd w = .setd pos digit) ∧
    (w &&& 0x180#9 = 0x180#9 ↔ decodeCmd w = .clrc) ∧
    (∀ s, perform (.edge false false w) s = exec .nop s)

/-- Words written out from the formats (R61) decode to what they stand for; one word of each function port (R68). -/
def Obligations.WrittenOutWordsDecode : Prop :=
  decodeCmd 0b000000000#9 = .nop ∧ decodeCmd 0b010000001#9 = .fill 1#2 ∧ decodeCmd 0b011111110#9 = .fill 2#2 ∧
    decodeCmd 0b100110100#9 = .setd 3#3 4#4 ∧ decodeCmd 0b101011001#9 = .setd 5#3 9#4 ∧
    decodeCmd 0b110000000#9 = .clrc ∧ decode .encDigit 0b0111 = .ok (.enc 7#4) ∧
    decode .decByte 0b01100110 = .ok (.dec 0x66#8)

/-! ### The step -/

/-- A step runs the instruction presented (R154, R68): a command at the command port, a digit at the encoder, a byte at the
decoder. What stands around the meaning is the model's choice: the step takes the action off the queue (log entry 6) and
advances the counter of the free values (`tick`, log entry 2). A table word placed by `withFetchWord` is run by the very next
step; which port a word of that many bits goes to is the model's choice as well (log entry 9). -/
def Obligations.StepRunsPresentedInstruction : Prop :=
  (∀ s rest w, s.todo = .edge false true w :: rest → step s = exec (decodeCmd w) { s.tick with todo := rest }) ∧
  (∀ s rest d, s.todo = .encDigit d :: rest → step s = exec (.enc d) { s.tick with todo := rest }) ∧
  (∀ s rest b, s.todo = .decByte b :: rest → step s = exec (.dec b) { s.tick with todo := rest }) ∧
  (∀ (s : State) nbits w i, decodeTableWord nbits w = some i → step (s.withFetchWord nbits w) = exec i s.tick)

/-- R154: with `cmd_valid` = 0, or with nothing presented, the step leaves every slot, LSV, DS, the pins, the transport's side
and the result as they were. -/
def Obligations.StepWithoutCommandChangesNothing : Prop :=
  (∀ s rest w, s.todo = .edge false false w :: rest →
    ∃ t, step s = .next t ∧ SameSlots s t ∧ SameOutside { s with todo := rest } t) ∧
  (∀ s, s.todo = [] → ∃ t, step s = .next t ∧ SameSlots s t ∧ SameOutside s t)

/-- R31, R150: the values the spec gives for reset: five slots and ten bytes of 0x00, LSV 0, DS OFF. -/
def Obligations.ResetStateIsBlank : Prop :=
  (∀ p, State.reset.slot p = 0x00#8) ∧ State.reset.frame = List.replicate 10 0x00#8 ∧
    State.reset.lsv = false ∧ State.reset.ds = .off

/-- R150, R152, with R31 for LSV and DS (log entry 17): an edge with `rst` = 1 enters the reset values from any state,
whatever the command port carries; the slots are those `FILL` NONE leaves; pins and transport are untouched. -/
def Obligations.HardwareResetWinsFromAnyState : Prop :=
  ∀ s rest valid w, s.todo = .edge true valid w :: rest →
    ∃ t, step s = .next t ∧ (∀ p, t.slot p = 0x00#8) ∧ (∀ i, t.fb i = 0x00#8) ∧ t.lsv = false ∧ t.ds = .off ∧
      (∃ u, exec (.fill 0#2) s = .next u ∧ SameSlots t u) ∧
      SameOutside { s with lsv := false, ds := .off, todo := rest } t

/-! ### The commands -/

/-- R90: NOP leaves the state; so does an edge without a command. -/
def Obligations.NopLeavesStateUnchanged : Prop :=
  decodeCmd 0x000#9 = .nop ∧
    ∀ s, exec .nop s = .next s ∧ ∀ w, perform (.edge false false w) s = .next s

/-- R91: FILL NONE and FILL ALL set all five slots in one step, the even bytes stay 0x00, modes 2 and 3 change nothing;
nothing else changes (LSV included); the word is 0x080 + mode; filling twice is filling once. -/
def Obligations.FillWritesEverySlot : Prop :=
  ∀ (s : State) (mode : ModeBits),
    encode (.fill mode) = (.cmd, 0x080 + mode.toNat) ∧
    ∃ t, exec (.fill mode) s = .next t ∧
      (mode.toNat = 0 → ∀ p, t.slot p = 0x00#8) ∧
      (mode.toNat = 1 → ∀ p, t.slot p = 0x7F#8) ∧
      (2 ≤ mode.toNat → t = s) ∧
      (∀ i : Fin 10, i.val % 2 = 0 → t.fb i = 0x00#8) ∧
      SameOutside s t ∧ t.draws = s.draws ∧
      exec (.fill mode) t = .next t

/-- R92: SETD to a position 1..5 writes `zext_8(ENC(digit))` to that slot and nothing else: for a digit 0..9 the table entry;
for a digit 10..15 some pattern with bit 7 clear, of which no more is said. A position 0, 6 or 7 changes nothing, whatever the
digit. Its byte is FB[11 - 2*pos]; every other byte reads as before. The word is 0x100 + 16*pos + digit. -/
def Obligations.SetdWritesOneSlot : Prop :=
  ∀ (s : State) (pos : PosBits) (digit : DigitBits),
    encode (.setd pos digit) = (.cmd, 0x100 + 16 * pos.toNat + digit.toNat) ∧
    (∀ p : Pos, posNumber p = pos.toNat →
      ∃ t, exec (.setd pos digit) s = .next t ∧
        (∀ h : digit.toNat < 10, t.slot p = zext8 (Config.segTable.pat ⟨digit.toNat, h⟩)) ∧
        (t.slot p).getLsbD 7 = false ∧
        (∀ q, q ≠ p → t.slot q = s.slot q) ∧
        (∀ i : Fin 10, i.val = 11 - 2 * pos.toNat → t.fb i = t.slot p) ∧
        (∀ i : Fin 10, i.val ≠ 11 - 2 * pos.toNat → t.fb i = s.fb i) ∧
        SameOutside s t) ∧
    (pos.toNat = 0 ∨ 6 ≤ pos.toNat → exec (.setd pos digit) s = .next s)

/-- R93: the write decoder's table, and the frame-buffer index of each slot. -/
def Obligations.WriteDecoderTable : Prop :=
  writeDecoder 0#3 = none ∧ writeDecoder 1#3 = some .p1 ∧ writeDecoder 2#3 = some .p2 ∧
    writeDecoder 3#3 = some .p3 ∧ writeDecoder 4#3 = some .p4 ∧ writeDecoder 5#3 = some .p5 ∧
    writeDecoder 6#3 = none ∧ writeDecoder 7#3 = none ∧
    (∀ pos p, writeDecoder pos = some p → posIndex p = 11 - 2 * pos.toNat) ∧
    ∀ s : State, s.fb 9 = s.x1 ∧ s.fb 7 = s.x2 ∧ s.fb 5 = s.x3 ∧ s.fb 3 = s.x4 ∧ s.fb 1 = s.x5

/-- R94: CLRC writes zero to FB[0], which is constant zero: no state change. -/
def Obligations.ClrcChangesNothing : Prop :=
  decodeCmd 0x180#9 = .clrc ∧
    ∀ s : State, exec .clrc s = .next (s.memWrite 0 0x00#8) ∧ exec .clrc s = .next s

/-- R97, for digits 0..9 (a digit 10..15 is a draw): (L1) SETDs to different positions commute, (L2) the later SETD to a
position wins, (L3) a valid FILL leaves slots that depend on its mode only, (L4) the no-ops are the identity, (L5) what is
stored for a digit decodes to it. -/
def Obligations.CommandLaws : Prop :=
  (∀ s pos pos' d d', pos ≠ pos' → d.toNat < 10 → d'.toNat < 10 →
    ∃ t t' u, exec (.setd pos d) s = .next t ∧ exec (.setd pos' d') t = .next u ∧
      exec (.setd pos' d') s = .next t' ∧ exec (.setd pos d) t' = .next u) ∧
  (∀ s pos d d', d.toNat < 10 → d'.toNat < 10 →
    ∃ t u, exec (.setd pos d) s = .next t ∧ exec (.setd pos d') t = .next u ∧
      exec (.setd pos d') s = .next u) ∧
  (∀ s s' mode, mode.toNat < 2 →
    ∃ t t', exec (.fill mode) s = .next t ∧ exec (.fill mode) s' = .next t' ∧ SameSlots t t') ∧
  (∀ s, exec .nop s = .next s ∧ exec .clrc s = .next s ∧ (∀ mode, 2 ≤ mode.toNat → exec (.fill mode) s = .next s) ∧
    ∀ pos d, pos.toNat = 0 ∨ 6 ≤ pos.toNat → exec (.setd pos d) s = .next s) ∧
  (∀ s pos d (i : Fin 10), 1 ≤ pos.toNat → pos.toNat ≤ 5 → d.toNat < 10 → i.val = 11 - 2 * pos.toNat →
    ∃ t, exec (.setd pos d) s = .next t ∧ decPattern Config.segTable (t.fb i) = .digit d)

/-- R46: the same FILL, or the same SETD of a digit 0..9, issued twice leaves the state of issuing it once. -/
def Obligations.WritesAreIdempotent : Prop :=
  ∀ (s : State) (i : Instr), ((∃ mode, i = .fill mode) ∨ ∃ pos d, i = .setd pos d ∧ d.toNat < 10) →
    ∃ t, exec i s = .next t ∧ exec i t = .next t

/-! ### The function ports -/

/-- R81: ENC shows the table entry of a digit 0..9 on `enc_seg`; of what a digit 10..15 shows nothing is said. The encoder's
pins apart, nothing changes: no slot, no error. -/
def Obligations.EncPortShowsTableEntry : Prop :=
  ∀ (s : State) (d : DigitBits),
    ∃ t, exec (.enc d) s = .next t ∧ t.encDigit = d ∧
      (∀ h : d.toNat < 10, t.encSeg = Config.segTable.pat ⟨d.toNat, h⟩ ∧ t = { s with encDigit := d }) ∧
      SameSlots s t ∧ SameOutside { s with encDigit := d } t

/-- R83, R131: DEC gives the digit whose pattern, extended to 8 bits, equals the byte, with `dec_err` = 0; otherwise
`UnknownPatternError`, with `dec_err` = 1. The match is on all eight bits. The decoder's pins apart, nothing changes. -/
def Obligations.DecPortAnswersExactly : Prop :=
  ∀ (s : State) (b : Byte),
    ∃ t, exec (.dec b) s = .next t ∧ t = { s with decByte := b } ∧
      (∀ d : Fin 10, zext8 (Config.segTable.pat d) = b →
        t.decOut = .digit (BitVec.ofNat 4 d.val) ∧ decErr t.decOut = false) ∧
      ((∀ d : Fin 10, zext8 (Config.segTable.pat d) ≠ b) →
        t.decOut = .unknownPattern b ∧ decErr t.decOut = true) ∧
      (b.getLsbD 7 = true → decErr t.decOut = true)

/-- R82 as the model draws it (log entry 2, the model's choice): a SETD of a digit 10..15 to a valid position stores the free
pattern of the counter, and the encoder shows the free value of the counter; both advance the counter. -/
def Obligations.UnencodableDigitsDrawFreeValues : Prop :=
  ∀ (s : State) (d : DigitBits), 10 ≤ d.toNat →
    (∀ pos p, writeDecoder pos = some p →
      ∃ t, exec (.setd pos d) s = .next t ∧ t.slot p = zext8 (Config.freePattern s.draws) ∧ t.draws = s.draws + 1) ∧
    ∃ t, exec (.enc d) s = .next t ∧ t.encSeg = Config.freeEncPort t.draws ∧ t.draws = s.draws + 1

/-- R83, corner cases: for every injective table exactly 10 of the 256 bytes decode. -/
def Obligations.TenBytesDecode : Prop :=
  ∀ T : SegTable,
    (Finset.univ.filter fun k : Fin 256 => decErr (decPattern T (BitVec.ofNat 8 k.val)) = false).card = 10

/-- R85, for every injective table: DEC of the encoded digit is the digit, and a byte that decodes is the code of its digit
(the second law is the spec's own inference from R83). -/
def Obligations.EncodeDecodeRoundTrip : Prop :=
  ∀ (T : SegTable) (free : Pattern),
    (∀ d : DigitBits, d.toNat < 10 → decPattern T (zext8 (encPattern T d free)) = .digit d) ∧
    (∀ (b : Byte) (d : DigitBits), decPattern T b = .digit d → d.toNat < 10 ∧ zext8 (encPattern T d free) = b)

/-- R42, R86: the byte of FILL ALL lights every segment, that of FILL NONE none, and neither sets bit 7; a table entry
extended to a byte lights the segments whose bits its pattern holds, in the order top, upper-right, lower-right, bottom,
lower-left, upper-left, middle from bit 0. -/
def Obligations.FillPatternsLightAllOrNoSegments : Prop :=
  (∀ g, segmentLit patAll g = true ∧ segmentLit patNone g = false) ∧
    patAll.getLsbD 7 = false ∧ patNone.getLsbD 7 = false ∧
    ∀ (p : Pattern),
      [Segment.top, .upperRight, .lowerRight, .bottom, .lowerLeft, .upperLeft, .middle].map (segmentLit (zext8 p)) =
        [p.getLsbD 0, p.getLsbD 1, p.getLsbD 2, p.getLsbD 3, p.getLsbD 4, p.getLsbD 5, p.getLsbD 6]

/-! ### Readout and memory view -/

/-- R95: FRAME is all ten bytes, FB[0] first; `fb_q` carries byte i at bits 8i+7 down to 8i; the host hands exactly this
sequence, with length 10, to the transport at the display address. -/
def Obligations.FrameReadout : Prop :=
  ∀ s : State,
    s.frame = [0x00#8, s.x5, 0x00#8, s.x4, 0x00#8, s.x3, 0x00#8, s.x2, 0x00#8, s.x1] ∧
    s.memRead 0 10 = some s.frame ∧
    (∀ i : Fin 10, s.fbQ.extractLsb' (8 * i.val) 8 = s.fb i) ∧
    s.frameCall = .write Config.displayAddress s.frame 10

/-- R22, R53: the slots and the frame buffer are one storage and the even bytes are 0x00 always; the canonical image of the
frame buffer is canonical and reads as the frame buffer does. -/
def Obligations.RegisterAndMemoryViewsAgree : Prop :=
  ∀ s : State,
    (∀ (p : Pos) (i : Fin 10), i.val = 11 - 2 * posNumber p → s.fb i = s.slot p) ∧
    (∀ i : Fin 10, i.val % 2 = 0 → s.fb i = 0x00#8) ∧
    s.memRead 0 10 = some [0x00#8, s.x5, 0x00#8, s.x4, 0x00#8, s.x3, 0x00#8, s.x2, 0x00#8, s.x1] ∧
    Memory.wf s.memory = true ∧ ∀ i : Fin 10, s.memory.read i.val = s.fb i

/-! ### Frames, completion, invariants -/

/-- What the six instructions leave unchanged: NOP, CLRC, ENC and DEC every slot, so every byte; SETD every byte but FB[11 -
2*pos]; all six LSV, DS, the queue, the transport's side and the result; the encoder's pins but for ENC, the decoder's but for
DEC. -/
def Obligations.InstructionFrames : Prop :=
  ∀ (i : Instr) (s t : State), exec i s = .next t →
    ((i = .nop ∨ i = .clrc ∨ (∃ d, i = .enc d) ∨ ∃ b, i = .dec b) →
      SameSlots s t ∧ ∀ a : Fin 10, t.fb a = s.fb a) ∧
    (∀ pos d, i = .setd pos d → ∀ a : Fin 10, writeDecoder pos = none ∨ a.val ≠ 11 - 2 * pos.toNat → t.fb a = s.fb a) ∧
    (∀ mode, i = .fill mode → ∀ a : Fin 10, a.val % 2 = 0 → t.fb a = s.fb a) ∧
    (t.lsv = s.lsv ∧ t.ds = s.ds ∧ t.todo = s.todo ∧ t.answers = s.answers ∧ t.calls = s.calls ∧ t.result = s.result) ∧
    ((∀ d, i ≠ .enc d) → t.encDigit = s.encDigit) ∧
    ((∀ b, i ≠ .dec b) → t.decByte = s.decByte)

/-- R154, R159: no instruction stops: every one answers a next state in every state, and so does every step that presents
something to the block: an edge with whatever pins, a digit on `enc_digit`, a byte on `dec_byte` (R68, R115). -/
def Obligations.BlockIsAlwaysReady : Prop :=
  (∀ (i : Instr) (s : State), ∃ t, exec i s = .next t) ∧
  (∀ s rest rst valid w, s.todo = .edge rst valid w :: rest → ∃ t, step s = .next t ∧ t.todo = rest) ∧
  (∀ s rest d, s.todo = .encDigit d :: rest → ∃ t, step s = .next t ∧ t.todo = rest) ∧
  (∀ s rest b, s.todo = .decByte b :: rest → ∃ t, step s = .next t ∧ t.todo = rest)

/-- R96 I2: bit 7 of every slot stays 0 through every step, whatever the host or the transport does. -/
def Obligations.BitSevenStaysClear : Prop :=
  ∀ s t, BitSevenClear s → step s = .next t → BitSevenClear t

/-- R96 I2 in the reset state. -/
def Obligations.BitSevenClearAtReset : Prop := BitSevenClear State.reset

/-- R96 I3: while no pending action leads to a SETD of a digit outside 0..9, every slot holds one of the twelve values, and
both stay so through every step: the host sequences themselves never issue such a SETD. -/
def Obligations.SlotsStayKnown : Prop :=
  ∀ s t, SlotsKnown s → KnownQueue s → step s = .next t → SlotsKnown t ∧ KnownQueue t

/-- R96 I3 in the reset state. -/
def Obligations.SlotsKnownAtReset : Prop := SlotsKnown State.reset ∧ KnownQueue State.reset

/-! ### Whole-machine rules -/

/-- Only a clock edge writes the frame buffer, and no clock edge makes a transport call (R46: "a write to the buffer never
causes a bus transaction by itself"; R20, R132). -/
def Obligations.OnlyEdgesWriteTheFrameBuffer : Prop :=
  ∀ s a rest t, s.todo = a :: rest → step s = .next t →
    ((∀ rst valid w, a ≠ .edge rst valid w) → SameSlots s t) ∧
    ((∃ rst valid w, a = .edge rst valid w) → t.calls = s.calls ∧ t.answers = s.answers)

/-- R25: nothing depends on LSV: with another LSV the step does the same to all else and stops where it stopped. -/
def Obligations.LsvIsNeverRead : Prop :=
  ∀ s b,
    (∀ t, step s = .next t → ∃ u, step { s with lsv := b } = .next u ∧ SameButLsv u t) ∧
    (∀ r, step s = .fault r → step { s with lsv := b } = .fault r) ∧
    (∀ r, step s = .refused r → step { s with lsv := b } = .refused r)

/-- R26, R111: nothing depends on DS: with another DS the step does the same to all else and stops where it stopped. -/
def Obligations.DsIsNeverRead : Prop :=
  ∀ s d,
    (∀ t, step s = .next t → ∃ u, step { s with ds := d } = .next u ∧ SameButDs u t) ∧
    (∀ r, step s = .fault r → step { s with ds := d } = .fault r) ∧
    (∀ r, step s = .refused r → step { s with ds := d } = .refused r)

/-- R145, R159: the only fault is a transport call that never returns; the only refusals are a negative argument (U4) and a
`setDigit` to a position 1..5 of a digit without encoding (U2). Each names the action it comes from. -/
def Obligations.StopsAreTheSpecsOwn : Prop :=
  ∀ s,
    (∀ f, step s = .fault f → f = .transportHang ∧
      ∃ a rest, s.todo = a :: rest ∧
        (a = .frame ∨ a = .showWrite ∨ a = .call .powerOff ∨ a = .call .readDecimal ∨
          (∃ m, a = .powerOnWrite m) ∨ ∃ st m, a = .setup st m)) ∧
    (∀ r, step s = .refused r →
      ∃ c rest, s.todo = .call c :: rest ∧
        ((r = .negativeArgument ∧ ((∃ v, c = .showDecimal v ∧ v < 0) ∨ (∃ v, c = .digitCount v ∧ v < 0) ∨
            ∃ v i, c = .digitAt v i ∧ (v < 0 ∨ i < 0))) ∨
          (r = .digitHasNoEncoding ∧ ∃ d p, c = .setDigit d p ∧ 1 ≤ p ∧ p ≤ 5 ∧ (d < 0 ∨ 15 < d))))

/-- R111, the spec's own reading D19 (log entry 11): what each action does to DS. The rows the spec leaves unspecified take a
free value: any state after a failed `powerOn` or `showDecimal`, a powered one after a `powerOn` with an invalid mode. No
other action but an edge with `rst` = 1 (log entry 17) changes DS. Two things are the model's choice: that the bare frame
write leaves DS, for which R111 has no row (log entry 25), and that the `powerOn` inside `showDecimal` writes DS in passing
(log entry 20). -/
def Obligations.DisplayStateTransitions : Prop :=
  (∀ m st, 0 ≤ st →
    (∀ n, m = 0 → displayAfterPowerOn m st n = .showNone) ∧ (∀ n, m = 1 → displayAfterPowerOn m st n = .showAll) ∧
    (∀ n, m ≠ 0 → m ≠ 1 → displayAfterPowerOn m st n ≠ .off)) ∧
  (∀ s rest t, s.todo = .call .powerOff :: rest → step s = .next t →
    ∃ st, t.result = .status st ∧ (0 ≤ st → t.ds = .off) ∧ (st < 0 → t.ds = s.ds)) ∧
  (∀ s rest m t, s.todo = .powerOnWrite m :: rest → step s = .next t →
    ∃ st n, t.result = .status st ∧ t.ds = displayAfterPowerOn m st n) ∧
  (∀ s rest stage m t, s.todo = .setup stage m :: rest → step s = .next t →
    t.ds = s.ds ∨ ∃ st n, st < 0 ∧ t.result = .status st ∧ t.ds = displayAfterPowerOn m st n) ∧
  (∀ s rest t, s.todo = .showWrite :: rest → step s = .next t →
    ∃ st, t.result = .status st ∧ (0 ≤ st → t.ds = .showValue)) ∧
  (∀ s a rest t, s.todo = a :: rest → step s = .next t → t.ds ≠ s.ds →
    (∃ valid w, a = .edge true valid w) ∨ a = .showWrite ∨ a = .call .powerOff ∨ (∃ m, a = .powerOnWrite m) ∨
      ∃ stage m, a = .setup stage m)

/-- R25, the spec's own reading D18 (log entries 10, 17): LSV is 0 after hardware reset and after the host part of `reset`,
unspecified (the free bit) after `showDecimal` completes, and unchanged by every other action. -/
def Obligations.LsvTransitions : Prop :=
  (∀ s rest valid w t, s.todo = .edge true valid w :: rest → step s = .next t → t.lsv = false) ∧
  (∀ s rest t, s.todo = .clearLsv :: rest → step s = .next t → t.lsv = false) ∧
  (∀ s rest t, s.todo = .showWrite :: rest → step s = .next t → ∃ n, t.lsv = Config.freeBit n) ∧
  (∀ s a rest t, s.todo = a :: rest → step s = .next t →
    (∀ valid w, a ≠ .edge true valid w) → a ≠ .clearLsv → a ≠ .showWrite → t.lsv = s.lsv)

/-! ### The host functions -/

/-- R102: `digitCount(0)` is 0; for v >= 1 it is the least n with v < 10^n; the call returns it and changes nothing else. -/
def Obligations.DigitCountIsLeastPower : Prop :=
  digitCount 0 = 0 ∧
  (∀ v, 1 ≤ v → v < 10 ^ digitCount v ∧ ∀ n, v < 10 ^ n → digitCount v ≤ n) ∧
  (∀ s rest (v : Nat), s.todo = .call (.digitCount v) :: rest →
    step s = .next { s.tick with todo := rest, result := .count (digitCount v) })

/-- R103: `digitAt(v, i)` is the digit floor(v / 10^i) mod 10 at every place the value has, and invalid at every other place
and for the value 0. -/
def Obligations.DigitAtReadsEveryPlace : Prop :=
  (∀ v i, (10 ^ i ≤ v → digitAt v i = some (v / 10 ^ i % 10)) ∧ (v < 10 ^ i → digitAt v i = none)) ∧
  (∀ v i, digitAt v i = none ↔ v = 0 ∨ (digitCount v : Int) - 1 < i) ∧
  (∀ s rest (v i : Nat), s.todo = .call (.digitAt v i) :: rest →
    (∀ d, digitAt v i = some d → step s = .next { s.tick with todo := rest, result := .digit d }) ∧
    (digitAt v i = none → step s = .next { s.tick with todo := rest, result := .invalid }))

/-- R105, with the model's choices of log entries 15 and 16: host `setDigit` to a position 1..5 with a digit 0..15 issues the
SETD, and that is all it does; to any other position it issues nothing; to a position 1..5 with any other digit the call is
refused. -/
def Obligations.HostSetDigit : Prop :=
  ∀ s rest (d p : Int), s.todo = .call (.setDigit d p) :: rest →
    (∀ (pos : PosBits) (digit : DigitBits), p = pos.toNat → d = digit.toNat → 1 ≤ p → p ≤ 5 →
      ∃ u t, exec (.setd pos digit) { s with todo := rest, draws := s.draws + 2 } = .next u ∧
        runSteps 2 s = .next t ∧ t = { u with result := .nothing } ∧
        t.calls = s.calls ∧ t.lsv = s.lsv ∧ t.ds = s.ds ∧ t.todo = rest) ∧
    (p < 1 ∨ 5 < p → step s = .next { s.tick with todo := rest, result := .nothing }) ∧
    (1 ≤ p → p ≤ 5 → d < 0 ∨ 15 < d → step s = .refused .digitHasNoEncoding)

/-- R106: host `reset` fills the slots for a valid mode, leaves them for an invalid one (also one that does not fit the
field), clears LSV in every case, makes no transport call, leaves DS, and returns nothing. -/
def Obligations.HostResetFillsAndClearsLsv : Prop :=
  ∀ s rest (m : Int), s.todo = .call (.reset m) :: rest →
    ∃ k t, runSteps k s = .next t ∧ t.lsv = false ∧
      (m = 0 → ∀ p, t.slot p = 0x00#8) ∧ (m = 1 → ∀ p, t.slot p = 0x7F#8) ∧ (m ≠ 0 → m ≠ 1 → SameSlots s t) ∧
      SameOutside { s with lsv := false, todo := rest, result := .nothing } t

/-- R107, the failing paths: the first setup write that fails ends `powerOn` with its status; the calls made are those up to
it, no command reaches the block, LSV is unchanged. -/
def Obligations.PowerOnStopsAtFirstFailure : Prop :=
  ∀ s rest (m s1 s2 s3 : Int) b1 b2 b3 later, s.todo = .call (.powerOn m) :: rest →
    (s1 < 0 → s.answers = .returns s1 b1 :: later →
      ∃ t, runSteps 2 s = .next t ∧ t.result = .status s1 ∧ SameSlots s t ∧ t.lsv = s.lsv ∧ t.todo = rest ∧
        t.answers = later ∧ t.calls = s.calls ++ [busCommandCall .oscOn]) ∧
    (0 ≤ s1 → s2 < 0 → s.answers = .returns s1 b1 :: .returns s2 b2 :: later →
      ∃ t, runSteps 3 s = .next t ∧ t.result = .status s2 ∧ SameSlots s t ∧ t.lsv = s.lsv ∧ t.todo = rest ∧
        t.answers = later ∧ t.calls = s.calls ++ [busCommandCall .oscOn, busCommandCall .blinkOff]) ∧
    (0 ≤ s1 → 0 ≤ s2 → s3 < 0 →
      s.answers = .returns s1 b1 :: .returns s2 b2 :: .returns s3 b3 :: later →
      ∃ t, runSteps 4 s = .next t ∧ t.result = .status s3 ∧ SameSlots s t ∧ t.lsv = s.lsv ∧ t.todo = rest ∧
        t.answers = later ∧
        t.calls = s.calls ++ [busCommandCall .oscOn, busCommandCall .blinkOff, busCommandCall .brightness])

/-- R107, the path on which the three setup writes succeed: four calls, the fourth the full frame after the FILL, whose status
is returned unchanged; slots filled for a valid mode and left for any other, where a mode outside the 2-bit field is the
model's inference (log entry 28); LSV unchanged. DS after a successful `powerOn` NONE or ALL is the spec's own reading D19 in
R111 (log entry 11). -/
def Obligations.PowerOnFillsAndSendsFrame : Prop :=
  ∀ s rest (m s1 s2 s3 s4 : Int) b1 b2 b3 b4 later, s.todo = .call (.powerOn m) :: rest →
    0 ≤ s1 → 0 ≤ s2 → 0 ≤ s3 →
    s.answers = .returns s1 b1 :: .returns s2 b2 :: .returns s3 b3 :: .returns s4 b4 :: later →
    ∃ k t, runSteps k s = .next t ∧ t.result = .status s4 ∧
      (m = 0 → ∀ p, t.slot p = 0x00#8) ∧ (m = 1 → ∀ p, t.slot p = 0x7F#8) ∧ (m ≠ 0 → m ≠ 1 → SameSlots s t) ∧
      t.lsv = s.lsv ∧ t.todo = rest ∧ t.answers = later ∧
      t.calls = s.calls ++ [busCommandCall .oscOn, busCommandCall .blinkOff, busCommandCall .brightness,
        .write Config.displayAddress t.frame 10] ∧
      (0 ≤ s4 → m = 0 → t.ds = .showNone) ∧ (0 ≤ s4 → m = 1 → t.ds = .showAll)

/-- R108: `powerOff` makes the one transport write of the oscillator-disable command and returns its status; slots, LSV and
pins are unchanged. -/
def Obligations.PowerOffSendsOneCommand : Prop :=
  ∀ s rest st b later, s.todo = .call .powerOff :: rest → s.answers = .returns st b :: later →
    ∃ t, step s = .next t ∧ t.result = .status st ∧ t.calls = s.calls ++ [busCommandCall .oscOff] ∧
      SameSlots s t ∧ t.lsv = s.lsv ∧ t.encDigit = s.encDigit ∧ t.decByte = s.decByte ∧ t.todo = rest ∧ t.answers = later

/-- R109, R110: `showDecimal(v)` for every v >= 0, when the setup writes succeed: afterwards position p shows the digit
floor(v / 10^(p-1)) mod 10 where the value has one and is blank elsewhere; 0 shows a zero in position 1; exactly 10 shows
nothing. Five calls are made, the last the final frame, and its status is returned unchanged. The blank mode is the spec's
reading D20. That DS is SHOW_VALUE when that status is not negative is the spec's own reading D19 in R111 (log entry 11). -/
def Obligations.ShowDecimalDrawsTheDigits : Prop :=
  ∀ s rest (v : Nat) (s1 s2 s3 s4 s5 : Int) b1 b2 b3 b4 b5 later, s.todo = .call (.showDecimal v) :: rest →
    0 ≤ s1 → 0 ≤ s2 → 0 ≤ s3 →
    s.answers = .returns s1 b1 :: .returns s2 b2 :: .returns s3 b3 :: .returns s4 b4 :: .returns s5 b5 :: later →
    ∃ k t, runSteps k s = .next t ∧ t.todo = rest ∧ t.result = .status s5 ∧ t.answers = later ∧
      (v = 10 → ∀ p, t.slot p = 0x00#8) ∧
      (v ≠ 10 → ∀ p, t.slot p =
        if posNumber p = 1 ∨ 10 ^ (posNumber p - 1) ≤ v then
          zext8 (Config.segTable.pat ⟨v / 10 ^ (posNumber p - 1) % 10, Nat.mod_lt _ (by omega)⟩)
        else 0x00#8) ∧
      t.calls = s.calls ++ [busCommandCall .oscOn, busCommandCall .blinkOff, busCommandCall .brightness,
        .write Config.displayAddress (List.replicate 10 0x00#8) 10, .write Config.displayAddress t.frame 10] ∧
      (0 ≤ s5 → t.ds = .showValue)

/-- R109 as the spec reads it (D21, log entry 18): a failed power-on does not end `showDecimal`. Whichever of the three setup
writes fails, the calls made are those up to it and then the final frame, the digits are still drawn, and the status returned
is the final write's. -/
def Obligations.ShowDecimalIgnoresFailedPowerOn : Prop :=
  ∀ s rest (v : Nat) (s1 s2 s3 st : Int) b1 b2 b3 b later (made : List BusCommand),
    s.todo = .call (.showDecimal v) :: rest →
    (s1 < 0 ∧ s.answers = .returns s1 b1 :: .returns st b :: later ∧ made = [.oscOn]) ∨
      (0 ≤ s1 ∧ s2 < 0 ∧ s.answers = .returns s1 b1 :: .returns s2 b2 :: .returns st b :: later ∧
        made = [.oscOn, .blinkOff]) ∨
      (0 ≤ s1 ∧ 0 ≤ s2 ∧ s3 < 0 ∧
        s.answers = .returns s1 b1 :: .returns s2 b2 :: .returns s3 b3 :: .returns st b :: later ∧
        made = [.oscOn, .blinkOff, .brightness]) →
    ∃ k t, runSteps k s = .next t ∧ t.todo = rest ∧ t.result = .status st ∧ t.answers = later ∧
      (v = 10 → ∀ p, t.slot p = 0x00#8) ∧
      (v ≠ 10 → ∀ p, t.slot p =
        if posNumber p = 1 ∨ 10 ^ (posNumber p - 1) ≤ v then
          zext8 (Config.segTable.pat ⟨v / 10 ^ (posNumber p - 1) % 10, Nat.mod_lt _ (by omega)⟩)
        else 0x00#8) ∧
      t.calls = s.calls ++ made.map busCommandCall ++ [.write Config.displayAddress t.frame 10]

/-- R112: `readDecimal` makes one read; a negative status is a transport failure and the byte is not decoded; otherwise the
answer is DEC of the byte; no slot changes. The three-way answer is the spec's choice D24. That LSV and DS are unchanged is
the spec's own reading in R25 and R111 (D18 and D19, log entries 10 and 11). -/
def Obligations.ReadDecimalThreeWays : Prop :=
  ∀ s rest st b later, s.todo = .call .readDecimal :: rest → s.answers = .returns st b :: later →
    ∃ t, step s = .next t ∧
      (st < 0 → t.result = .transportFailure st ∧ t.decByte = s.decByte) ∧
      (∀ d : Fin 10, 0 ≤ st → zext8 (Config.segTable.pat d) = b → t.result = .digit d.val) ∧
      (0 ≤ st → (∀ d : Fin 10, zext8 (Config.segTable.pat d) ≠ b) → t.result = .unknownPattern b) ∧
      t.calls = s.calls ++ [.read Config.readAddress Config.readRegister Config.readFlag2 1] ∧
      SameSlots s t ∧ t.lsv = s.lsv ∧ t.ds = s.ds ∧ t.todo = rest ∧ t.answers = later

/-- R48, R72, R95: the host's `frame` hands the transport the snapshot of the state all earlier commands left, and changes no
slot. That its status goes to the result and that DS stays is the model's choice, for R111 has no row for a bare write (log
entry 25); that LSV stays is the spec's own reading in R25 (D18, log entry 10). -/
def Obligations.FrameActionSendsSnapshot : Prop :=
  ∀ s rest st b later, s.todo = .frame :: rest → s.answers = .returns st b :: later →
    ∃ t, step s = .next t ∧ t.calls = s.calls ++ [.write Config.displayAddress s.frame 10] ∧
      t.result = .status st ∧ SameSlots s t ∧ t.lsv = s.lsv ∧ t.ds = s.ds ∧ t.todo = rest ∧ t.answers = later

/-- `showDecimal` refuses a negative value (R110: "the model refuses the call"), and `digitCount` and `digitAt`, to which R102
and R103 give no negative argument, refuse one as U4 asks (log entry 14). -/
def Obligations.NegativeArgumentsAreRefused : Prop :=
  ∀ s rest (v i : Int), v < 0 →
    (s.todo = .call (.showDecimal v) :: rest → step s = .refused .negativeArgument) ∧
    (s.todo = .call (.digitCount v) :: rest → step s = .refused .negativeArgument) ∧
    (s.todo = .call (.digitAt v i) :: rest → step s = .refused .negativeArgument) ∧
    (s.todo = .call (.digitAt i v) :: rest → step s = .refused .negativeArgument)

/-- A transport call that never returns hangs the host (R114): whatever action makes the call. -/
def Obligations.SilentTransportHangsTheHost : Prop :=
  ∀ s rest later a, s.todo = a :: rest → s.answers = .never :: later →
    (a = .frame ∨ a = .showWrite ∨ a = .call .powerOff ∨ a = .call .readDecimal ∨
      (∃ m, a = .powerOnWrite m) ∨ ∃ st m, a = .setup st m) →
    step s = .fault .transportHang

/-! ### The assembler -/

/-- R71: the words of the assembly lines, and the operands the assembler refuses. -/
def Obligations.AssemblerEmitsCanonicalWords : Prop :=
  assemble .nop = .ok [issue 0x000#9] ∧ assemble .clrc = .ok [issue 0x180#9] ∧
  (∀ m, (m ≤ 3 → assemble (.fill m) = .ok [issue (BitVec.ofNat 9 (0x080 + m))]) ∧
    (3 < m → assemble (.fill m) = .error .operandTooWide)) ∧
  (∀ d p, (d ≤ 15 → p ≤ 7 → assemble (.setd d p) = .ok [issue (BitVec.ofNat 9 (0x100 + 16 * p + d))]) ∧
    (15 < d ∨ 7 < p → assemble (.setd d p) = .error .operandTooWide))

/-- R72: the expansions of the pseudo-instructions. -/
def Obligations.PseudoInstructionsExpand : Prop :=
  (∀ m, expand (.reset m) = expand (.fill m)) ∧ expand .blank = expand (.fill 0) ∧ expand .test = expand (.fill 1) ∧
  (∀ d, expand (.show1 d) = expand (.fill 0) ++ expand .clrc ++ expand (.setd d 1)) ∧ expand .frame = [.frame]
end

