-- ==== Sys2Proof/Laws/Decode.lean ====
section
/-! SUPPORT. The small lemmas of the decoder: the fields of a canonical word, and well-formedness of every instruction. -/
namespace Sys2Proof

/-- Every instruction is well formed: its operands have the width of their fields. -/
theorem Instr.wf_true (i : Instr) : i.wf = true := by
  cases i with
  | nop => rfl
  | clrc => rfl
  | fill m => have := m.isLt; simp [Instr.wf, modeFits]; omega
  | setd p d =>
    have := p.isLt
    have := d.isLt
    simp [Instr.wf, posFits, digitFits]
    omega
  | enc d => have := d.isLt; simp [Instr.wf, digitFits]; omega
  | dec b => exact decide_eq_true b.isLt

theorem cmdOp_fillWord : ∀ m, cmdOp (fillWord m) = 0b01#2 := by decide

theorem cmdMode_fillWord : ∀ m, cmdMode (fillWord m) = m := by decide

theorem cmdOp_setdWord : ∀ p d, cmdOp (setdWord p d) = 0b10#2 := by decide

theorem cmdPos_setdWord : ∀ p d, cmdPos (setdWord p d) = p := by decide

theorem cmdDigit_setdWord : ∀ p d, cmdDigit (setdWord p d) = d := by decide

/-- The decoder reads back the canonical FILL word. -/
theorem decodeCmd_fillWord (m : ModeBits) : decodeCmd (fillWord m) = .fill m := by
  simp [decodeCmd, cmdOp_fillWord, cmdMode_fillWord]

/-- The decoder reads back the canonical SETD word. -/
theorem decodeCmd_setdWord (p : PosBits) (d : DigitBits) : decodeCmd (setdWord p d) = .setd p d := by
  simp [decodeCmd, cmdOp_setdWord, cmdPos_setdWord, cmdDigit_setdWord]

/-- What a number that is a word of its port decodes to. -/
theorem decode_of_fits {port : Port} {w : Nat} (h : w < 2 ^ portWidth port) :
    decode port w = .ok (match port with
      | .cmd => decodeCmd (BitVec.ofNat 9 w)
      | .encDigit => .enc (BitVec.ofNat 4 w)
      | .decByte => .dec (BitVec.ofNat 8 w)) := by
  cases port <;> simp [decode, h]

/-- A number with a bit above the port's width is rejected by name. -/
theorem decode_of_too_wide {port : Port} {w : Nat} (h : 2 ^ portWidth port ≤ w) :
    decode port w = .error (.tooWide port) := by
  simp [decode, Nat.not_lt.mpr h]

end Sys2Proof
end

