-- ==== Sys2Proof/Laws/Digits.lean ====
section
/-! SUPPORT. The small lemmas of digit extraction (spec/42_host_sequences.md R102, R103). -/
namespace Sys2Proof.Machine

/-- A bound of at least the value is never reached. -/
theorem countLoop_eq : ∀ {f g v : Nat}, v ≤ f → v ≤ g → countLoop f v = countLoop g v := by
  intro f
  induction f with
  | zero =>
    intro g v hf _
    obtain rfl : v = 0 := by omega
    cases g <;> simp [countLoop]
  | succ f ih =>
    intro g v hf hg
    by_cases hv : v = 0
    · subst hv
      cases g <;> simp [countLoop]
    · obtain ⟨g, rfl⟩ : ∃ k, g = k + 1 := ⟨g - 1, by omega⟩
      have hd : v / 10 < v := Nat.div_lt_self (by omega) (by omega)
      simp only [countLoop, hv, if_false]
      rw [ih (g := g) (by omega) (by omega)]

@[simp] theorem digitCount_zero : digitCount 0 = 0 := rfl

/-- One turn of the loop. -/
theorem digitCount_step {v : Nat} (h : v ≠ 0) : digitCount v = digitCount (v / 10) + 1 := by
  obtain ⟨k, rfl⟩ : ∃ k, v = k + 1 := ⟨v - 1, by omega⟩
  have hd : (k + 1) / 10 < k + 1 := Nat.div_lt_self (by omega) (by omega)
  unfold digitCount
  rw [countLoop, if_neg h, countLoop_eq (f := k) (g := (k + 1) / 10) (by omega) (by omega)]

/-- A digit of `digitAt` is a decimal digit. -/
theorem digitAt_lt {v i d : Nat} (h : digitAt v i = some d) : d < 10 := by
  unfold digitAt at h
  split at h
  · cases h
  · cases h
    exact Nat.mod_lt _ (by omega)

/-- `digitAt` answers at every place the count admits. -/
theorem digitAt_of_lt {v i : Nat} (h : i < digitCount v) : digitAt v i = some (v / 10 ^ i % 10) := by
  have hv : v ≠ 0 := by rintro rfl; simp at h
  simp [digitAt, hv, Nat.not_lt.mpr (Nat.succ_le_of_lt h)]

/-- The calls of `showDecimal`'s loop, one per digit, ones first. -/
theorem digitCalls_of_gt {v : Nat} (h : 10 < v) :
    digitCalls v =
      (List.range (digitCount v)).map fun i => Action.call (.setDigit (v / 10 ^ i % 10 : Nat) (i + 1 : Nat)) := by
  unfold digitCalls
  rw [if_neg (by omega), if_pos h, ← List.filterMap_eq_map]
  apply List.filterMap_congr
  intro i hi
  simp [digitAt_of_lt (List.mem_range.mp hi)]

end Sys2Proof.Machine
end

