-- ==== Sys2Proof/Laws/Operands.lean ====
section
/-! SUPPORT. What the operand forms can do: the mode, the write decoder, and the segment table both ways. -/
namespace Sys2Proof

theorem zext8_injective : Function.Injective zext8 := by
  intro a b h
  have h' : (zext8 a).toNat = (zext8 b).toNat := congrArg _ h
  have ha := a.isLt
  have hb := b.isLt
  simp only [zext8, BitVec.toNat_setWidth] at h'
  apply BitVec.eq_of_toNat_eq
  omega

theorem getLsbD_seven_zext8 (p : Pattern) : (zext8 p).getLsbD 7 = false := by
  simp [zext8]

end Sys2Proof

namespace Sys2Proof.Machine

@[simp] theorem fillPattern_none : fillPattern 0#2 = some patNone := rfl
@[simp] theorem fillPattern_all : fillPattern 1#2 = some patAll := rfl

/-- A mode that is neither NONE nor ALL writes nothing. -/
theorem fillPattern_invalid {m : ModeBits} (h0 : m ≠ 0#2) (h1 : m ≠ 1#2) : fillPattern m = none := by
  simp [fillPattern, h0, h1]

/-- Whatever a FILL writes is one of the two fill patterns. -/
theorem fillPattern_cases {m : ModeBits} {v : Byte} (h : fillPattern m = some v) : v = patNone ∨ v = patAll := by
  unfold fillPattern at h
  split at h
  · exact .inl (Option.some.inj h).symm
  · split at h
    · exact .inr (Option.some.inj h).symm
    · cases h

/-- The write decoder enables exactly the slot of the number it is given. -/
theorem writeDecoder_eq_some : ∀ pos p, writeDecoder pos = some p ↔ pos.toNat = posNumber p := by
  intro pos p
  cases p <;> revert pos <;> decide

/-- The write decoder enables nothing exactly outside 1..5. -/
theorem writeDecoder_eq_none : ∀ pos, writeDecoder pos = none ↔ pos.toNat = 0 ∨ 5 < pos.toNat := by decide

/-- The memory view's byte at a position's index is that position's. -/
theorem slotAt_posIndex (p : Pos) : slotAt (posIndex p) = some p := by cases p <;> rfl

theorem posIndex_lt (p : Pos) : posIndex p < 10 := by cases p <;> decide

/-- A byte that belongs to a position stands at its index. -/
theorem slotAt_eq_some : ∀ i : Fin 10, ∀ p, slotAt i.val = some p ↔ i.val = posIndex p := by
  intro i p
  cases p <;> revert i <;> decide

/-- The even bytes belong to no position. -/
theorem slotAt_even : ∀ i : Fin 10, i.val % 2 = 0 → slotAt i.val = none := by decide

theorem encPattern_of_lt (T : SegTable) {d : DigitBits} (free : Pattern) (h : d.toNat < 10) :
    encPattern T d free = T.pat ⟨d.toNat, h⟩ := by simp [encPattern, h]

theorem encPattern_of_not_lt (T : SegTable) {d : DigitBits} (free : Pattern) (h : ¬ d.toNat < 10) :
    encPattern T d free = free := by simp [encPattern, h]

/-- The decoder finds a digit exactly when its pattern is the byte (the table is injective). -/
theorem decDigit_eq_some (T : SegTable) (b : Byte) (d : Fin 10) :
    decDigit T b = some d ↔ zext8 (T.pat d) = b := by
  constructor
  · intro h
    simpa using List.find?_some h
  · intro h
    unfold decDigit
    cases hf : (List.finRange 10).find? fun e => decide (zext8 (T.pat e) = b) with
    | none =>
      have := List.find?_eq_none.mp hf d (List.mem_finRange d)
      simp [h] at this
    | some e =>
      have he : zext8 (T.pat e) = b := by simpa using List.find?_some hf
      exact congrArg some (T.inj (zext8_injective (he.trans h.symm)))

/-- The decoder finds no digit exactly when no pattern is the byte. -/
theorem decDigit_eq_none (T : SegTable) (b : Byte) :
    decDigit T b = none ↔ ∀ d, zext8 (T.pat d) ≠ b := by
  rw [Option.eq_none_iff_forall_ne_some]
  exact forall_congr' fun d => not_congr (decDigit_eq_some T b d)

theorem decPattern_of_some {T : SegTable} {b : Byte} {d : Fin 10} (h : decDigit T b = some d) :
    decPattern T b = .digit (BitVec.ofNat 4 d.val) := by simp [decPattern, h]

theorem decPattern_of_none {T : SegTable} {b : Byte} (h : decDigit T b = none) :
    decPattern T b = .unknownPattern b := by simp [decPattern, h]

end Sys2Proof.Machine
end

