-- ==== Sys2Proof/Laws/State.lean ====
section
/-!
SUPPORT. One lemma per field per update of the state, each true by rfl, so that no proof unfolds a record update.
-/
namespace Sys2Proof.Machine

/-! ### `State.setSlot` -/

@[simp] theorem State.setSlot_lsv (s : State) (p : Pos) (v : Byte) :
    (s.setSlot p v).lsv = s.lsv := by cases p <;> rfl

@[simp] theorem State.setSlot_ds (s : State) (p : Pos) (v : Byte) :
    (s.setSlot p v).ds = s.ds := by cases p <;> rfl

@[simp] theorem State.setSlot_encDigit (s : State) (p : Pos) (v : Byte) :
    (s.setSlot p v).encDigit = s.encDigit := by cases p <;> rfl

@[simp] theorem State.setSlot_decByte (s : State) (p : Pos) (v : Byte) :
    (s.setSlot p v).decByte = s.decByte := by cases p <;> rfl

@[simp] theorem State.setSlot_todo (s : State) (p : Pos) (v : Byte) :
    (s.setSlot p v).todo = s.todo := by cases p <;> rfl

@[simp] theorem State.setSlot_answers (s : State) (p : Pos) (v : Byte) :
    (s.setSlot p v).answers = s.answers := by cases p <;> rfl

@[simp] theorem State.setSlot_calls (s : State) (p : Pos) (v : Byte) :
    (s.setSlot p v).calls = s.calls := by cases p <;> rfl

@[simp] theorem State.setSlot_result (s : State) (p : Pos) (v : Byte) :
    (s.setSlot p v).result = s.result := by cases p <;> rfl

@[simp] theorem State.setSlot_draws (s : State) (p : Pos) (v : Byte) :
    (s.setSlot p v).draws = s.draws := by cases p <;> rfl

/-! ### `State.setAllSlots` -/

@[simp] theorem State.setAllSlots_x1 (s : State) (v : Byte) :
    (s.setAllSlots v).x1 = v := rfl

@[simp] theorem State.setAllSlots_x2 (s : State) (v : Byte) :
    (s.setAllSlots v).x2 = v := rfl

@[simp] theorem State.setAllSlots_x3 (s : State) (v : Byte) :
    (s.setAllSlots v).x3 = v := rfl

@[simp] theorem State.setAllSlots_x4 (s : State) (v : Byte) :
    (s.setAllSlots v).x4 = v := rfl

@[simp] theorem State.setAllSlots_x5 (s : State) (v : Byte) :
    (s.setAllSlots v).x5 = v := rfl

@[simp] theorem State.setAllSlots_lsv (s : State) (v : Byte) :
    (s.setAllSlots v).lsv = s.lsv := rfl

@[simp] theorem State.setAllSlots_ds (s : State) (v : Byte) :
    (s.setAllSlots v).ds = s.ds := rfl

@[simp] theorem State.setAllSlots_encDigit (s : State) (v : Byte) :
    (s.setAllSlots v).encDigit = s.encDigit := rfl

@[simp] theorem State.setAllSlots_decByte (s : State) (v : Byte) :
    (s.setAllSlots v).decByte = s.decByte := rfl

@[simp] theorem State.setAllSlots_todo (s : State) (v : Byte) :
    (s.setAllSlots v).todo = s.todo := rfl

@[simp] theorem State.setAllSlots_answers (s : State) (v : Byte) :
    (s.setAllSlots v).answers = s.answers := rfl

@[simp] theorem State.setAllSlots_calls (s : State) (v : Byte) :
    (s.setAllSlots v).calls = s.calls := rfl

@[simp] theorem State.setAllSlots_result (s : State) (v : Byte) :
    (s.setAllSlots v).result = s.result := rfl

@[simp] theorem State.setAllSlots_draws (s : State) (v : Byte) :
    (s.setAllSlots v).draws = s.draws := rfl

/-! ### `State.hardwareReset` -/

@[simp] theorem State.hardwareReset_x1 (s : State) :
    (s.hardwareReset).x1 = 0x00#8 := rfl

@[simp] theorem State.hardwareReset_x2 (s : State) :
    (s.hardwareReset).x2 = 0x00#8 := rfl

@[simp] theorem State.hardwareReset_x3 (s : State) :
    (s.hardwareReset).x3 = 0x00#8 := rfl

@[simp] theorem State.hardwareReset_x4 (s : State) :
    (s.hardwareReset).x4 = 0x00#8 := rfl

@[simp] theorem State.hardwareReset_x5 (s : State) :
    (s.hardwareReset).x5 = 0x00#8 := rfl

@[simp] theorem State.hardwareReset_lsv (s : State) :
    (s.hardwareReset).lsv = false := rfl

@[simp] theorem State.hardwareReset_ds (s : State) :
    (s.hardwareReset).ds = .off := rfl

@[simp] theorem State.hardwareReset_encDigit (s : State) :
    (s.hardwareReset).encDigit = s.encDigit := rfl

@[simp] theorem State.hardwareReset_decByte (s : State) :
    (s.hardwareReset).decByte = s.decByte := rfl

@[simp] theorem State.hardwareReset_todo (s : State) :
    (s.hardwareReset).todo = s.todo := rfl

@[simp] theorem State.hardwareReset_answers (s : State) :
    (s.hardwareReset).answers = s.answers := rfl

@[simp] theorem State.hardwareReset_calls (s : State) :
    (s.hardwareReset).calls = s.calls := rfl

@[simp] theorem State.hardwareReset_result (s : State) :
    (s.hardwareReset).result = s.result := rfl

@[simp] theorem State.hardwareReset_draws (s : State) :
    (s.hardwareReset).draws = s.draws := rfl

/-! ### `State.driveEncoder` -/

@[simp] theorem State.driveEncoder_x1 (s : State) (d : DigitBits) :
    (s.driveEncoder d).x1 = s.x1 := rfl

@[simp] theorem State.driveEncoder_x2 (s : State) (d : DigitBits) :
    (s.driveEncoder d).x2 = s.x2 := rfl

@[simp] theorem State.driveEncoder_x3 (s : State) (d : DigitBits) :
    (s.driveEncoder d).x3 = s.x3 := rfl

@[simp] theorem State.driveEncoder_x4 (s : State) (d : DigitBits) :
    (s.driveEncoder d).x4 = s.x4 := rfl

@[simp] theorem State.driveEncoder_x5 (s : State) (d : DigitBits) :
    (s.driveEncoder d).x5 = s.x5 := rfl

@[simp] theorem State.driveEncoder_lsv (s : State) (d : DigitBits) :
    (s.driveEncoder d).lsv = s.lsv := rfl

@[simp] theorem State.driveEncoder_ds (s : State) (d : DigitBits) :
    (s.driveEncoder d).ds = s.ds := rfl

@[simp] theorem State.driveEncoder_encDigit (s : State) (d : DigitBits) :
    (s.driveEncoder d).encDigit = d := rfl

@[simp] theorem State.driveEncoder_decByte (s : State) (d : DigitBits) :
    (s.driveEncoder d).decByte = s.decByte := rfl

@[simp] theorem State.driveEncoder_todo (s : State) (d : DigitBits) :
    (s.driveEncoder d).todo = s.todo := rfl

@[simp] theorem State.driveEncoder_answers (s : State) (d : DigitBits) :
    (s.driveEncoder d).answers = s.answers := rfl

@[simp] theorem State.driveEncoder_calls (s : State) (d : DigitBits) :
    (s.driveEncoder d).calls = s.calls := rfl

@[simp] theorem State.driveEncoder_result (s : State) (d : DigitBits) :
    (s.driveEncoder d).result = s.result := rfl

@[simp] theorem State.driveEncoder_draws (s : State) (d : DigitBits) :
    (s.driveEncoder d).draws = drawsAfterEnc d s.draws := rfl

/-! ### `State.driveDecoder` -/

@[simp] theorem State.driveDecoder_x1 (s : State) (b : Byte) :
    (s.driveDecoder b).x1 = s.x1 := rfl

@[simp] theorem State.driveDecoder_x2 (s : State) (b : Byte) :
    (s.driveDecoder b).x2 = s.x2 := rfl

@[simp] theorem State.driveDecoder_x3 (s : State) (b : Byte) :
    (s.driveDecoder b).x3 = s.x3 := rfl

@[simp] theorem State.driveDecoder_x4 (s : State) (b : Byte) :
    (s.driveDecoder b).x4 = s.x4 := rfl

@[simp] theorem State.driveDecoder_x5 (s : State) (b : Byte) :
    (s.driveDecoder b).x5 = s.x5 := rfl

@[simp] theorem State.driveDecoder_lsv (s : State) (b : Byte) :
    (s.driveDecoder b).lsv = s.lsv := rfl

@[simp] theorem State.driveDecoder_ds (s : State) (b : Byte) :
    (s.driveDecoder b).ds = s.ds := rfl

@[simp] theorem State.driveDecoder_encDigit (s : State) (b : Byte) :
    (s.driveDecoder b).encDigit = s.encDigit := rfl

@[simp] theorem State.driveDecoder_decByte (s : State) (b : Byte) :
    (s.driveDecoder b).decByte = b := rfl

@[simp] theorem State.driveDecoder_todo (s : State) (b : Byte) :
    (s.driveDecoder b).todo = s.todo := rfl

@[simp] theorem State.driveDecoder_answers (s : State) (b : Byte) :
    (s.driveDecoder b).answers = s.answers := rfl

@[simp] theorem State.driveDecoder_calls (s : State) (b : Byte) :
    (s.driveDecoder b).calls = s.calls := rfl

@[simp] theorem State.driveDecoder_result (s : State) (b : Byte) :
    (s.driveDecoder b).result = s.result := rfl

@[simp] theorem State.driveDecoder_draws (s : State) (b : Byte) :
    (s.driveDecoder b).draws = s.draws := rfl

/-! ### `State.push` -/

@[simp] theorem State.push_x1 (s : State) (as : List Action) :
    (s.push as).x1 = s.x1 := rfl

@[simp] theorem State.push_x2 (s : State) (as : List Action) :
    (s.push as).x2 = s.x2 := rfl

@[simp] theorem State.push_x3 (s : State) (as : List Action) :
    (s.push as).x3 = s.x3 := rfl

@[simp] theorem State.push_x4 (s : State) (as : List Action) :
    (s.push as).x4 = s.x4 := rfl

@[simp] theorem State.push_x5 (s : State) (as : List Action) :
    (s.push as).x5 = s.x5 := rfl

@[simp] theorem State.push_lsv (s : State) (as : List Action) :
    (s.push as).lsv = s.lsv := rfl

@[simp] theorem State.push_ds (s : State) (as : List Action) :
    (s.push as).ds = s.ds := rfl

@[simp] theorem State.push_encDigit (s : State) (as : List Action) :
    (s.push as).encDigit = s.encDigit := rfl

@[simp] theorem State.push_decByte (s : State) (as : List Action) :
    (s.push as).decByte = s.decByte := rfl

@[simp] theorem State.push_todo (s : State) (as : List Action) :
    (s.push as).todo = as ++ s.todo := rfl

@[simp] theorem State.push_answers (s : State) (as : List Action) :
    (s.push as).answers = s.answers := rfl

@[simp] theorem State.push_calls (s : State) (as : List Action) :
    (s.push as).calls = s.calls := rfl

@[simp] theorem State.push_result (s : State) (as : List Action) :
    (s.push as).result = s.result := rfl

@[simp] theorem State.push_draws (s : State) (as : List Action) :
    (s.push as).draws = s.draws := rfl

/-! ### `State.tick` -/

@[simp] theorem State.tick_x1 (s : State) :
    (s.tick).x1 = s.x1 := rfl

@[simp] theorem State.tick_x2 (s : State) :
    (s.tick).x2 = s.x2 := rfl

@[simp] theorem State.tick_x3 (s : State) :
    (s.tick).x3 = s.x3 := rfl

@[simp] theorem State.tick_x4 (s : State) :
    (s.tick).x4 = s.x4 := rfl

@[simp] theorem State.tick_x5 (s : State) :
    (s.tick).x5 = s.x5 := rfl

@[simp] theorem State.tick_lsv (s : State) :
    (s.tick).lsv = s.lsv := rfl

@[simp] theorem State.tick_ds (s : State) :
    (s.tick).ds = s.ds := rfl

@[simp] theorem State.tick_encDigit (s : State) :
    (s.tick).encDigit = s.encDigit := rfl

@[simp] theorem State.tick_decByte (s : State) :
    (s.tick).decByte = s.decByte := rfl

@[simp] theorem State.tick_todo (s : State) :
    (s.tick).todo = s.todo := rfl

@[simp] theorem State.tick_answers (s : State) :
    (s.tick).answers = s.answers := rfl

@[simp] theorem State.tick_calls (s : State) :
    (s.tick).calls = s.calls := rfl

@[simp] theorem State.tick_result (s : State) :
    (s.tick).result = s.result := rfl

@[simp] theorem State.tick_draws (s : State) :
    (s.tick).draws = s.draws + 1 := rfl

/-! ### `State.logCall` -/

@[simp] theorem State.logCall_x1 (s : State) (c : TransportCall) :
    (s.logCall c).x1 = s.x1 := rfl

@[simp] theorem State.logCall_x2 (s : State) (c : TransportCall) :
    (s.logCall c).x2 = s.x2 := rfl

@[simp] theorem State.logCall_x3 (s : State) (c : TransportCall) :
    (s.logCall c).x3 = s.x3 := rfl

@[simp] theorem State.logCall_x4 (s : State) (c : TransportCall) :
    (s.logCall c).x4 = s.x4 := rfl

@[simp] theorem State.logCall_x5 (s : State) (c : TransportCall) :
    (s.logCall c).x5 = s.x5 := rfl

@[simp] theorem State.logCall_lsv (s : State) (c : TransportCall) :
    (s.logCall c).lsv = s.lsv := rfl

@[simp] theorem State.logCall_ds (s : State) (c : TransportCall) :
    (s.logCall c).ds = s.ds := rfl

@[simp] theorem State.logCall_encDigit (s : State) (c : TransportCall) :
    (s.logCall c).encDigit = s.encDigit := rfl

@[simp] theorem State.logCall_decByte (s : State) (c : TransportCall) :
    (s.logCall c).decByte = s.decByte := rfl

@[simp] theorem State.logCall_todo (s : State) (c : TransportCall) :
    (s.logCall c).todo = s.todo := rfl

@[simp] theorem State.logCall_answers (s : State) (c : TransportCall) :
    (s.logCall c).answers = s.answers := rfl

@[simp] theorem State.logCall_calls (s : State) (c : TransportCall) :
    (s.logCall c).calls = s.calls ++ [c] := rfl

@[simp] theorem State.logCall_result (s : State) (c : TransportCall) :
    (s.logCall c).result = s.result := rfl

@[simp] theorem State.logCall_draws (s : State) (c : TransportCall) :
    (s.logCall c).draws = s.draws := rfl

/-! ### Slots by position -/

@[simp] theorem State.slot_setSlot_self (s : State) (p : Pos) (v : Byte) : (s.setSlot p v).slot p = v := by
  cases p <;> rfl

theorem State.slot_setSlot_of_ne (s : State) {p q : Pos} (v : Byte) (h : q ≠ p) :
    (s.setSlot p v).slot q = s.slot q := by
  cases p <;> cases q <;> first | rfl | exact absurd rfl h

@[simp] theorem State.slot_setAllSlots (s : State) (p : Pos) (v : Byte) : (s.setAllSlots v).slot p = v := by
  cases p <;> rfl

@[simp] theorem State.slot_hardwareReset (s : State) (p : Pos) : s.hardwareReset.slot p = 0x00#8 := by
  cases p <;> rfl

@[simp] theorem State.slot_reset (p : Pos) : State.reset.slot p = 0x00#8 := by cases p <;> rfl

/-- The slots are the only block state: equal slot fields, equal slots. -/
theorem State.slot_congr {s t : State} (h1 : s.x1 = t.x1) (h2 : s.x2 = t.x2) (h3 : s.x3 = t.x3) (h4 : s.x4 = t.x4)
    (h5 : s.x5 = t.x5) (p : Pos) : s.slot p = t.slot p := by
  cases p <;> assumption


@[simp] theorem State.slot_driveEncoder (s : State) (d : DigitBits) (p : Pos) : (s.driveEncoder d).slot p = s.slot p := by
  cases p <;> rfl

@[simp] theorem State.slot_driveDecoder (s : State) (b : Byte) (p : Pos) : (s.driveDecoder b).slot p = s.slot p := by
  cases p <;> rfl

@[simp] theorem State.slot_push (s : State) (as : List Action) (p : Pos) : (s.push as).slot p = s.slot p := by
  cases p <;> rfl

@[simp] theorem State.slot_tick (s : State) (p : Pos) : (s.tick).slot p = s.slot p := by
  cases p <;> rfl

@[simp] theorem State.slot_logCall (s : State) (c : TransportCall) (p : Pos) : (s.logCall c).slot p = s.slot p := by
  cases p <;> rfl

end Sys2Proof.Machine
end

