-- ==== Sys2Proof/Laws/Ops.lean ====
section
/-!
SUPPORT. What each shared operation can do, said once: the memory view and its canonical form, the stores of FILL and
SETD, the transport call.
-/
namespace Sys2Proof.Machine

/-! ### The memory view -/

/-- The slot of a position is the byte at its index. -/
theorem State.fb_posIndex (s : State) (p : Pos) : s.fb ⟨posIndex p, posIndex_lt p⟩ = s.slot p := by
  cases p <;> rfl

/-- An even byte is 0x00 in every state. -/
theorem State.fb_even (s : State) (i : Fin 10) (h : i.val % 2 = 0) : s.fb i = 0x00#8 := by
  simp [State.fb, slotAt_even i h]

/-- A byte depends on the slots alone. -/
theorem State.fb_congr {s t : State} (h : ∀ p, s.slot p = t.slot p) (i : Fin 10) : s.fb i = t.fb i := by
  unfold State.fb
  split
  · exact h _
  · rfl

/-- `FRAME` byte by byte. -/
theorem State.frame_eq (s : State) :
    s.frame = [0x00#8, s.x5, 0x00#8, s.x4, 0x00#8, s.x3, 0x00#8, s.x2, 0x00#8, s.x1] := rfl

/-- Writing one byte: the byte written reads back when it has storage. -/
theorem State.fb_memWrite_self (s : State) (p : Pos) (v : Byte) :
    (s.memWrite ⟨posIndex p, posIndex_lt p⟩ v).fb ⟨posIndex p, posIndex_lt p⟩ = v := by
  cases p <;> rfl

/-- Writing one byte leaves every other byte alone. -/
theorem State.fb_memWrite_of_ne (s : State) {i j : Fin 10} (v : Byte) (h : j ≠ i) :
    (s.memWrite i v).fb j = s.fb j := by
  unfold State.memWrite
  split
  · rename_i p hp
    unfold State.fb
    split
    · rename_i q hq
      apply State.slot_setSlot_of_ne
      rintro rfl
      exact h (Fin.ext (((slotAt_eq_some j q).mp hq).trans ((slotAt_eq_some i q).mp hp).symm))
    · rfl
  · rfl

/-- A write to an even byte changes nothing. -/
theorem State.memWrite_even (s : State) (i : Fin 10) (v : Byte) (h : i.val % 2 = 0) : s.memWrite i v = s := by
  simp [State.memWrite, slotAt_even i h]

/-- The image of any state is canonical: so every operation keeps the form. -/
theorem State.memory_wf (s : State) : Memory.wf s.memory = true := by
  have hs : List.Pairwise (fun a b : Host.Cell => a.1 < b.1)
      [(1, s.x5), (3, s.x4), (5, s.x3), (7, s.x2), (9, s.x1)] := by simp
  have hp : s.memory.Pairwise fun a b => a.1 < b.1 := hs.sublist List.filter_sublist
  simp only [Memory.wf, Bool.and_eq_true, decide_eq_true_eq, List.all_eq_true]
  refine ⟨hp, fun c hc => ?_⟩
  obtain ⟨hm, hz⟩ := List.mem_filter.mp hc
  refine ⟨?_, by simpa using hz⟩
  simp only [List.mem_cons, List.not_mem_nil, or_false] at hm
  rcases hm with rfl | rfl | rfl | rfl | rfl <;> simp [Config.frameLength]

theorem State.memory_reset : State.reset.memory = [] := by decide

/-! ### FILL and SETD -/

/-- What FILL leaves in a slot. -/
theorem State.slot_fill (s : State) (m : ModeBits) (p : Pos) :
    (s.fill m).slot p = (fillPattern m).getD (s.slot p) := by
  unfold State.fill
  split <;> rename_i h <;> simp [h]

/-- An invalid mode changes nothing. -/
theorem State.fill_of_none {m : ModeBits} (h : fillPattern m = none) (s : State) : s.fill m = s := by
  simp [State.fill, h]

theorem State.fill_of_some {m : ModeBits} {v : Byte} (h : fillPattern m = some v) (s : State) :
    s.fill m = s.setAllSlots v := by
  simp [State.fill, h]

/-- An invalid position changes nothing, whatever the digit. -/
theorem State.storeDigit_of_none {T : SegTable} {pos : PosBits} (h : writeDecoder pos = none) (s : State)
    (d : DigitBits) : s.storeDigit T pos d = s := by
  simp [State.storeDigit, h]

/-- A valid position and a digit 0..9: one slot gets the table entry, nothing else changes. -/
theorem State.storeDigit_of_lt {T : SegTable} {pos : PosBits} {p : Pos} (h : writeDecoder pos = some p) (s : State)
    {d : DigitBits} (hd : d.toNat < 10) :
    s.storeDigit T pos d = s.setSlot p (zext8 (T.pat ⟨d.toNat, hd⟩)) := by
  simp only [State.storeDigit, h, encPattern_of_lt T _ hd, drawsAfterEnc, hd, if_true]
  cases p <;> rfl

/-- A valid position and a digit 10..15: one slot gets the free value, the counter advances. -/
theorem State.storeDigit_of_not_lt {T : SegTable} {pos : PosBits} {p : Pos} (h : writeDecoder pos = some p) (s : State)
    {d : DigitBits} (hd : ¬ d.toNat < 10) :
    s.storeDigit T pos d =
      { s.setSlot p (zext8 (Config.freePattern s.draws)) with draws := s.draws + 1 } := by
  simp only [State.storeDigit, h, encPattern_of_not_lt T _ hd, drawsAfterEnc, hd, if_false]

/-- What SETD leaves in the addressed slot. -/
theorem State.slot_storeDigit_self {T : SegTable} {pos : PosBits} {p : Pos} (h : writeDecoder pos = some p) (s : State)
    (d : DigitBits) :
    (s.storeDigit T pos d).slot p = zext8 (encPattern T d (Config.freePattern s.draws)) := by
  simp only [State.storeDigit, h]
  cases p <;> rfl

/-- SETD leaves the other slots alone. -/
theorem State.slot_storeDigit_of_ne {T : SegTable} {pos : PosBits} {q : Pos} (h : writeDecoder pos ≠ some q) (s : State)
    (d : DigitBits) : (s.storeDigit T pos d).slot q = s.slot q := by
  cases hp : writeDecoder pos with
  | none => rw [State.storeDigit_of_none hp]
  | some p =>
    simp only [State.storeDigit, hp]
    have hq : q ≠ p := fun e => h (e ▸ hp)
    rw [← State.slot_setSlot_of_ne s (zext8 (encPattern T d (Config.freePattern s.draws))) hq]
    cases q <;> rfl

/-! ### Transport calls -/

/-- An answer that the state holds is taken. -/
theorem State.takeAnswer_cons {s : State} {a : TransportAnswer} {rest : List TransportAnswer}
    (h : s.answers = a :: rest) : s.takeAnswer = (a, { s with answers := rest }) := by
  simp [State.takeAnswer, h]

/-- Taking an answer changes the answers still to come and the counter, nothing else. -/
theorem State.takeAnswer_frame (s : State) :
    s.takeAnswer.2 = { s with answers := s.takeAnswer.2.answers, draws := s.takeAnswer.2.draws } := by
  unfold State.takeAnswer
  split <;> rfl

/-- A transport call whose answer the state holds. -/
theorem State.transact_returns {s : State} {st : Int} {b : Byte} {rest : List TransportAnswer}
    (h : s.answers = .returns st b :: rest) (c : TransportCall) (k : Int → Byte → State → Result) :
    s.transact c k = k st b { s with answers := rest, calls := s.calls ++ [c] } := by
  have h' : (s.logCall c).answers = .returns st b :: rest := h
  rw [State.transact, State.takeAnswer_cons h']
  rfl

/-- A transport call that never returns hangs the host. -/
theorem State.transact_never {s : State} {rest : List TransportAnswer} (h : s.answers = .never :: rest)
    (c : TransportCall) (k : Int → Byte → State → Result) : s.transact c k = .fault .transportHang := by
  have h' : (s.logCall c).answers = .never :: rest := h
  rw [State.transact, State.takeAnswer_cons h']

/-- All a transport call can do: hang, or go on with some status and byte in a state that differs in the calls made, the
answers still to come and the counter. -/
theorem State.transact_cases (s : State) (c : TransportCall) (k : Int → Byte → State → Result) :
    s.transact c k = .fault .transportHang ∨
      ∃ st b rest n, s.transact c k = k st b { s with calls := s.calls ++ [c], answers := rest, draws := n } := by
  have hf := State.takeAnswer_frame (s.logCall c)
  unfold State.transact
  split
  · rename_i st b t ht
    rw [ht] at hf
    exact .inr ⟨st, b, t.answers, t.draws, congrArg (k st b) hf⟩
  · exact .inl rfl

end Sys2Proof.Machine
end

