-- ==== Sys2Proof/Laws/Exec.lean ====
section
/-! SUPPORT. What `exec` leaves alone in the host's half of the state, said once for all instructions. -/
namespace Sys2Proof.Machine

/-- A mode is NONE, ALL, or one that writes nothing. -/
theorem mode_cases : ∀ m : ModeBits, m = 0#2 ∨ m = 1#2 ∨ (2 ≤ m.toNat ∧ fillPattern m = none) := by decide

/-- A valid FILL, an invalid FILL. -/
theorem fill_cases (m : ModeBits) (s : State) : s.fill m = s ∨ ∃ v, s.fill m = s.setAllSlots v := by
  cases h : fillPattern m with
  | none => exact .inl (State.fill_of_none h s)
  | some v => exact .inr ⟨v, State.fill_of_some h s⟩

/-- The two shapes of a SETD: nothing, or one slot and perhaps the counter. -/
theorem storeDigit_cases (T : SegTable) (pos : PosBits) (d : DigitBits) (s : State) :
    s.storeDigit T pos d = s ∨ ∃ p v n, s.storeDigit T pos d = { s.setSlot p v with draws := n } := by
  cases h : writeDecoder pos with
  | none => exact .inl (State.storeDigit_of_none h s d)
  | some p => exact .inr ⟨p, _, _, by simp only [State.storeDigit, h]; rfl⟩

/-- No instruction touches LSV, DS, the queue, the transport's side or the result. -/
theorem exec_outside {i : Instr} {s t : State} (h : exec i s = .next t) :
    t.lsv = s.lsv ∧ t.ds = s.ds ∧ t.todo = s.todo ∧ t.answers = s.answers ∧ t.calls = s.calls ∧
      t.result = s.result := by
  cases i with
  | nop => cases h; exact ⟨rfl, rfl, rfl, rfl, rfl, rfl⟩
  | clrc => cases h; exact ⟨rfl, rfl, rfl, rfl, rfl, rfl⟩
  | fill m =>
    cases h
    rcases fill_cases m s with e | ⟨v, e⟩ <;> rw [e]
    · exact ⟨rfl, rfl, rfl, rfl, rfl, rfl⟩
    · exact ⟨rfl, rfl, rfl, rfl, rfl, rfl⟩
  | setd pos d =>
    cases h
    rcases storeDigit_cases Config.segTable pos d s with e | ⟨p, v, n, e⟩ <;> rw [e]
    · exact ⟨rfl, rfl, rfl, rfl, rfl, rfl⟩
    · cases p <;> exact ⟨rfl, rfl, rfl, rfl, rfl, rfl⟩
  | enc d => cases h; exact ⟨rfl, rfl, rfl, rfl, rfl, rfl⟩
  | dec b => cases h; exact ⟨rfl, rfl, rfl, rfl, rfl, rfl⟩

end Sys2Proof.Machine
end

