-- ==== Sys2Proof/Laws/Step.lean ====
section
/-! SUPPORT. One step and a run of steps, unfolded once. -/
namespace Sys2Proof.Machine

/-- With an action pending, a step performs it. -/
theorem step_cons {s : State} {a : Action} {rest : List Action} (h : s.todo = a :: rest) :
    step s = perform a { s.tick with todo := rest } := by
  simp [step, performNext, h]

/-- With nothing pending, a step is an edge without a command. -/
theorem step_nil {s : State} (h : s.todo = []) : step s = .next s.tick := by
  simp [step, performNext, h, clockEdge, exec, execNop]

/-- An issued command is executed. -/
theorem perform_issue (w : CmdWord) (s : State) : perform (issue w) s = exec (decodeCmd w) s := rfl

/-- A run of one more step, first step first. -/
theorem runSteps_succ {s t : State} (k : Nat) (h : step s = .next t) : runSteps (k + 1) s = runSteps k t := by
  simp [runSteps, h]

theorem runSteps_fault {s : State} {r : Fault} (k : Nat) (h : step s = .fault r) : runSteps (k + 1) s = .fault r := by
  simp [runSteps, h]

theorem runSteps_refused {s : State} {r : Refusal} (k : Nat) (h : step s = .refused r) :
    runSteps (k + 1) s = .refused r := by
  simp [runSteps, h]

/-- Runs compose. -/
theorem runSteps_add {s t : State} {j : Nat} (k : Nat) (h : runSteps j s = .next t) :
    runSteps (j + k) s = runSteps k t := by
  induction j generalizing s with
  | zero =>
    cases h
    rw [Nat.zero_add]
  | succ j ih =>
    rw [Nat.succ_add]
    cases hs : step s with
    | next u =>
      rw [runSteps_succ _ hs] at h ⊢
      exact ih h
    | fault r => simp [runSteps, hs] at h
    | refused r => simp [runSteps, hs] at h

/-- One turn of the host's run, for any machine whose step answers a next state. -/
theorem coreRun_next (M : Host.Core) {s t : M.State} (k : Nat) (h : M.step s = .next t) :
    M.run (k + 1) s = M.run k t := by
  rw [Host.Core.run, h]

theorem coreRun_fault (M : Host.Core) {s : M.State} {r : M.Fault} (k : Nat) (h : M.step s = .fault r) :
    M.run (k + 1) s = .fault r := by
  rw [Host.Core.run, h]

theorem coreRun_refused (M : Host.Core) {s : M.State} {r : M.Refusal} (k : Nat) (h : M.step s = .refused r) :
    M.run (k + 1) s = .refused r := by
  rw [Host.Core.run, h]

/-- `runSteps` is the host's run of this machine. -/
theorem runSteps_eq_run (k : Nat) (s : State) : runSteps k s = Sys2Proof.core.run k s := by
  induction k generalizing s with
  | zero => rfl
  | succ k ih =>
    cases hs : step s with
    | next t => exact (runSteps_succ k hs).trans ((ih t).trans (coreRun_next Sys2Proof.core k hs).symm)
    | fault r =>
      have h := coreRun_fault Sys2Proof.core k hs
      exact (runSteps_fault k hs).trans h.symm
    | refused r =>
      have h := coreRun_refused Sys2Proof.core k hs
      exact (runSteps_refused k hs).trans h.symm

end Sys2Proof.Machine
end

