-- ==== Sys2Proof/Laws/Host.lean ====
section
/-!
SUPPORT. One lemma per kind of host action: the state after the step that performs it, when the state holds the transport's
answer. The statements about whole sequences are chains of these.
-/
namespace Sys2Proof.Machine

/-- A status that is not negative does not fail. -/
theorem statusFails_of_nonneg {st : Int} (h : 0 ≤ st) : statusFails st = false := by
  simp [statusFails, h]

/-- A negative status fails. -/
theorem statusFails_of_neg {st : Int} (h : st < 0) : statusFails st = true := by
  simp [statusFails, h]

/-- An edge that carries an issued command: the command's meaning. -/
theorem step_issue {s : State} {w : CmdWord} {rest : List Action} (h : s.todo = issue w :: rest) :
    step s = exec (decodeCmd w) { s with draws := s.draws + 1, todo := rest } := by
  rw [step_cons h]
  rfl

@[simp] theorem fillActions_none : fillActions 0 = [issue (fillWord 0#2)] := rfl

@[simp] theorem fillActions_all : fillActions 1 = [issue (fillWord 1#2)] := rfl

/-- An issued FILL. -/
theorem step_fill {s : State} {m : ModeBits} {rest : List Action} (h : s.todo = issue (fillWord m) :: rest) :
    step s = .next (State.fill { s with draws := s.draws + 1, todo := rest } m) := by
  rw [step_issue h, decodeCmd_fillWord]
  rfl

/-- An issued SETD. -/
theorem step_setd {s : State} {pos : PosBits} {d : DigitBits} {rest : List Action}
    (h : s.todo = issue (setdWord pos d) :: rest) :
    step s = .next (State.storeDigit Config.segTable { s with draws := s.draws + 1, todo := rest } pos d) := by
  rw [step_issue h, decodeCmd_setdWord]
  rfl

/-- An issued CLRC. -/
theorem step_clrc {s : State} {rest : List Action} (h : s.todo = issue 0x180#9 :: rest) :
    step s = .next { s with draws := s.draws + 1, todo := rest } := by
  rw [step_issue h]
  rfl

/-- A setup write that succeeds. -/
theorem step_setup_ok {s : State} {g : SetupStage} {m st : Int} {b : Byte} {rest : List Action}
    {later : List TransportAnswer} (h : s.todo = .setup g m :: rest) (ha : s.answers = .returns st b :: later)
    (hs : 0 ≤ st) :
    step s = .next { s with
      draws := s.draws + 1
      todo := afterSetup g m ++ rest
      answers := later
      calls := s.calls ++ [busCommandCall (setupCommand g)] } := by
  rw [step_cons h]
  simp only [perform, setupStep]
  rw [State.transact_returns (s := { s.tick with todo := rest }) ha, statusFails_of_nonneg hs]
  rfl

/-- A setup write that fails ends `powerOn`. -/
theorem step_setup_fails {s : State} {g : SetupStage} {m st : Int} {b : Byte} {rest : List Action}
    {later : List TransportAnswer} (h : s.todo = .setup g m :: rest) (ha : s.answers = .returns st b :: later)
    (hs : st < 0) :
    step s = .next { s with
      draws := s.draws + 1 + 1
      todo := rest
      answers := later
      calls := s.calls ++ [busCommandCall (setupCommand g)]
      result := .status st
      ds := displayAfterPowerOn m st (s.draws + 1) } := by
  rw [step_cons h]
  simp only [perform, setupStep]
  rw [State.transact_returns (s := { s.tick with todo := rest }) ha, statusFails_of_neg hs]
  rfl

/-- The final write of `powerOn`. -/
theorem step_powerOnWrite {s : State} {m st : Int} {b : Byte} {rest : List Action} {later : List TransportAnswer}
    (h : s.todo = .powerOnWrite m :: rest) (ha : s.answers = .returns st b :: later) :
    step s = .next { s with
      draws := s.draws + 1 + 1
      todo := rest
      answers := later
      calls := s.calls ++ [s.frameCall]
      result := .status st
      ds := displayAfterPowerOn m st (s.draws + 1) } := by
  rw [step_cons h]
  simp only [perform, powerOnWriteStep]
  rw [State.transact_returns (s := { s.tick with todo := rest }) ha]
  rfl

/-- Step (f) of `showDecimal`. -/
theorem step_showWrite {s : State} {st : Int} {b : Byte} {rest : List Action} {later : List TransportAnswer}
    (h : s.todo = .showWrite :: rest) (ha : s.answers = .returns st b :: later) :
    step s = .next { s with
      draws := s.draws + 1 + 1
      todo := rest
      answers := later
      calls := s.calls ++ [s.frameCall]
      result := .status st
      ds := displayAfterShow st (s.draws + 1)
      lsv := Config.freeBit (s.draws + 1) } := by
  rw [step_cons h]
  simp only [perform, showWriteStep]
  rw [State.transact_returns (s := { s.tick with todo := rest }) ha]
  rfl

/-- The pseudo-instruction `frame`. -/
theorem step_frame {s : State} {st : Int} {b : Byte} {rest : List Action} {later : List TransportAnswer}
    (h : s.todo = .frame :: rest) (ha : s.answers = .returns st b :: later) :
    step s = .next { s with
      draws := s.draws + 1
      todo := rest
      answers := later
      calls := s.calls ++ [s.frameCall]
      result := .status st } := by
  rw [step_cons h]
  simp only [perform, frameStep]
  rw [State.transact_returns (s := { s.tick with todo := rest }) ha]
  rfl

/-- `powerOff`. -/
theorem step_powerOff {s : State} {st : Int} {b : Byte} {rest : List Action} {later : List TransportAnswer}
    (h : s.todo = .call .powerOff :: rest) (ha : s.answers = .returns st b :: later) :
    step s = .next { s with
      draws := s.draws + 1
      todo := rest
      answers := later
      calls := s.calls ++ [busCommandCall .oscOff]
      result := .status st
      ds := displayAfterPowerOff st s.ds } := by
  rw [step_cons h]
  simp only [perform, hostCall, callPowerOff]
  rw [State.transact_returns (s := { s.tick with todo := rest }) ha]
  rfl

/-- `readDecimal` when the read fails. -/
theorem step_readDecimal_fails {s : State} {st : Int} {b : Byte} {rest : List Action} {later : List TransportAnswer}
    (h : s.todo = .call .readDecimal :: rest) (ha : s.answers = .returns st b :: later) (hs : st < 0) :
    step s = .next { s with
      draws := s.draws + 1
      todo := rest
      answers := later
      calls := s.calls ++ [readCall]
      result := .transportFailure st } := by
  rw [step_cons h]
  simp only [perform, hostCall, callReadDecimal]
  rw [State.transact_returns (s := { s.tick with todo := rest }) ha, statusFails_of_neg hs]
  rfl

/-- `readDecimal` when the read delivers a byte. -/
theorem step_readDecimal_ok {s : State} {st : Int} {b : Byte} {rest : List Action} {later : List TransportAnswer}
    (h : s.todo = .call .readDecimal :: rest) (ha : s.answers = .returns st b :: later) (hs : 0 ≤ st) :
    step s = .next { s with
      draws := s.draws + 1
      todo := rest
      answers := later
      calls := s.calls ++ [readCall]
      decByte := b
      result := readResult (decPattern Config.segTable b) } := by
  rw [step_cons h]
  simp only [perform, hostCall, callReadDecimal]
  rw [State.transact_returns (s := { s.tick with todo := rest }) ha, statusFails_of_nonneg hs]
  rfl

/-- `powerOn` begins. -/
theorem step_powerOn {s : State} {m : Int} {rest : List Action} (h : s.todo = .call (.powerOn m) :: rest) :
    step s = .next { s with
      draws := s.draws + 1
      todo := .setup .oscOn m :: rest } := by
  rw [step_cons h]
  rfl

/-- `reset` begins. -/
theorem step_reset {s : State} {m : Int} {rest : List Action} (h : s.todo = .call (.reset m) :: rest) :
    step s = .next { s with
      draws := s.draws + 1
      todo := fillActions m ++ .clearLsv :: rest
      result := .nothing } := by
  rw [step_cons h]
  simp [perform, hostCall, callReset, State.push, State.tick]

/-- The host part of `reset`. -/
theorem step_clearLsv {s : State} {rest : List Action} (h : s.todo = .clearLsv :: rest) :
    step s = .next { s with
      draws := s.draws + 1
      todo := rest
      lsv := false } := by
  rw [step_cons h]
  rfl

/-- `setDigit` to a position 1..5 with a digit 0..15. -/
theorem step_setDigit {s : State} {pos : PosBits} {digit : DigitBits} {rest : List Action} {d p : Int}
    (h : s.todo = .call (.setDigit d p) :: rest) (hp : p = pos.toNat) (hd : d = digit.toNat) (h1 : 1 ≤ p) (h5 : p ≤ 5) :
    step s = .next { s with
      draws := s.draws + 1
      todo := issue (setdWord pos digit) :: rest
      result := .nothing } := by
  have hlt := digit.isLt
  have ep : BitVec.ofInt 3 (pos.toNat : Int) = pos := by simp
  have ed : BitVec.ofInt 4 (digit.toNat : Int) = digit := by simp
  rw [step_cons h]
  simp only [perform, hostCall, callSetDigit]
  rw [if_pos ⟨h1, h5⟩, if_pos (by omega), hp, hd, ep, ed]
  rfl

/-- `setDigit` to any other position. -/
theorem step_setDigit_ignored {s : State} {rest : List Action} {d p : Int}
    (h : s.todo = .call (.setDigit d p) :: rest) (hp : p < 1 ∨ 5 < p) :
    step s = .next { s with
      draws := s.draws + 1
      todo := rest
      result := .nothing } := by
  rw [step_cons h]
  simp only [perform, hostCall, callSetDigit]
  rw [if_neg (by omega)]
  rfl

/-- `showDecimal` of a value that is not negative begins. -/
theorem step_showDecimal {s : State} {v : Nat} {rest : List Action} (h : s.todo = .call (.showDecimal v) :: rest) :
    step s = .next { s with
      draws := s.draws + 1
      todo := .call (.powerOn 0) :: .call (.reset 0) :: issue 0x180#9 :: (digitCalls v ++ .showWrite :: rest) } := by
  rw [step_cons h]
  simp only [perform, hostCall, callShowDecimal]
  rw [if_neg (by omega)]
  simp [State.push, State.tick]

end Sys2Proof.Machine
end

