-- ==== Sys2Proof/Laws/PerInstr.lean ====
section
/-!
SUPPORT. A statement per instruction, as syntax: its encoded word fits the width of its port, so that it can be
presented (spec/30_encoding.md R61, R68).
-/
namespace Sys2Proof.Laws.EncodedFits

/-- The word of the instruction fits its port. -/
def Statement (i : Instr) : Prop := (encode i).2 < 2 ^ portWidth (encode i).1

theorem nop : Statement .nop := by unfold Statement; decide

theorem fill (mode : ModeBits) : Statement (.fill mode) := (fillWord mode).isLt

theorem setd (pos : PosBits) (digit : DigitBits) : Statement (.setd pos digit) := (setdWord pos digit).isLt

theorem clrc : Statement .clrc := by unfold Statement; decide

theorem enc (digit : DigitBits) : Statement (.enc digit) := digit.isLt

theorem dec (byte : Byte) : Statement (.dec byte) := byte.isLt

end Sys2Proof.Laws.EncodedFits
end

