-- ==== Sys2Proof/Tests/Slice0.lean ====
section
/-!
SUPPORT. The package's own tests. Expected results are those of spec/95_test_vectors.md and of the encodings of
spec/30_encoding.md; concrete bytes use the default table (R80, G2), passed as the table argument. Then, for each statement with
hypotheses, a witness that meets them.
-/
namespace Sys2Proof.Tests

open Sys2Proof Sys2Proof.Machine

/-! ### Helpers -/

/-- Slots x[1] to x[5] over the reset state. -/
def withSlots (a b c d e : Byte) : State := { State.reset with x1 := a, x2 := b, x3 := c, x4 := d, x5 := e }

/-- One pending action. -/
def presenting (a : Action) : State := { State.reset with todo := [a] }

/-- One pending action and the transport's answers to come. -/
def answering (a : Action) (answers : List TransportAnswer) : State :=
  { State.reset with todo := [a], answers := answers }

/-- What a transport call answers in the witnesses. -/
def ok : TransportAnswer := .returns 0 0x00#8
def failed : TransportAnswer := .returns (-1) 0x00#8

/-! ### WellFormed (R71: the operands the assembler refuses) -/

theorem test_wf_mode_4_refused : (AsmLine.fill 4).wf = false := by decide
theorem test_wf_digit_16_refused : (AsmLine.setd 16 1).wf = false := by decide
theorem test_wf_pos_8_refused : (AsmLine.setd 1 8).wf = false := by decide
theorem test_wf_reset_4_refused : (AsmLine.reset 4).wf = false := by decide
theorem test_wf_show1_16_refused : (AsmLine.show1 16).wf = false := by decide
theorem test_wf_unusual_accepted : (AsmLine.fill 3).wf = true ∧ (AsmLine.setd 15 7).wf = true := by decide
theorem test_wf_instr : (Instr.setd 7#3 15#4).wf = true := by decide

/-! ### Decoding (R61 bit by bit; table 2.6) -/

theorem test_decode_nop : decodeCmd 0b000000000#9 = .nop ∧ decodeCmd 0x07F#9 = .nop := by decide
theorem test_decode_fill : decodeCmd 0b010000001#9 = .fill 1#2 ∧ decodeCmd 0x0FE#9 = .fill 2#2 := by decide
theorem test_decode_setd : decodeCmd 0b100110100#9 = .setd 3#3 4#4 ∧ decodeCmd 0x17F#9 = .setd 7#3 15#4 := by decide
theorem test_decode_clrc : decodeCmd 0b110000000#9 = .clrc ∧ decodeCmd 0x1A3#9 = .clrc := by decide
theorem test_decode_enc : decode .encDigit 0b0111 = .ok (.enc 7#4) := rfl
theorem test_decode_dec : decode .decByte 0b01100110 = .ok (.dec 0x66#8) := rfl
theorem test_decode_too_wide : decode .cmd 512 = .error (.tooWide .cmd) ∧ decode .encDigit 16 = .error (.tooWide .encDigit) :=
  ⟨rfl, rfl⟩
theorem test_table_words :
    decodeTableWord 9 0x134 = some (.setd 3#3 4#4) ∧ decodeTableWord 16 0x180 = some .clrc ∧
      decodeTableWord 4 12 = some (.enc 12#4) ∧ decodeTableWord 8 0x80 = some (.dec 0x80#8) := by decide
theorem test_fetch_runs_first :
    step (State.reset.withFetchWord 16 0x081) = exec (.fill 1#2) State.reset.tick := rfl

/-! ### The commands (tables 2.3 to 2.5) -/

/-- `setd 7, 1` over `fill all`: one slot changes. -/
theorem test_setd_one_slot :
    ((withSlots 0x7F#8 0x7F#8 0x7F#8 0x7F#8 0x7F#8).storeDigit defaultTable 1#3 7#4).frame =
      [0x00#8, 0x7F#8, 0x00#8, 0x7F#8, 0x00#8, 0x7F#8, 0x00#8, 0x7F#8, 0x00#8, 0x07#8] := by decide

/-- `setd 7, 5`: index 1. -/
theorem test_setd_leftmost :
    (State.reset.storeDigit defaultTable 5#3 7#4).frame =
      [0x00#8, 0x07#8, 0x00#8, 0x00#8, 0x00#8, 0x00#8, 0x00#8, 0x00#8, 0x00#8, 0x00#8] := by decide

/-- `fill all`, 0x081. -/
theorem test_fill_all :
    ((withSlots 0x6D#8 0x66#8 0x4F#8 0x5B#8 0x06#8).fill 1#2).frame =
      [0x00#8, 0x7F#8, 0x00#8, 0x7F#8, 0x00#8, 0x7F#8, 0x00#8, 0x7F#8, 0x00#8, 0x7F#8] := by decide

/-- `fill 2` is ignored. -/
theorem test_fill_invalid :
    ((withSlots 0x6D#8 0x66#8 0x4F#8 0x5B#8 0x06#8).fill 2#2).frame =
      [0x00#8, 0x06#8, 0x00#8, 0x5B#8, 0x00#8, 0x4F#8, 0x00#8, 0x66#8, 0x00#8, 0x6D#8] := by decide

/-- `nop` leaves FB the same. -/
theorem test_nop : exec .nop (withSlots 0x3F#8 0#8 0#8 0#8 0x06#8) = .next (withSlots 0x3F#8 0#8 0#8 0#8 0x06#8) := rfl

/-- `clrc` leaves FB the same. -/
theorem test_clrc : exec .clrc (withSlots 0x3F#8 0#8 0#8 0#8 0x06#8) = .next (withSlots 0x3F#8 0#8 0#8 0#8 0x06#8) := rfl

/-- `rst` wins over a FILL in the same step (table 2.10). -/
theorem test_reset_wins :
    perform (.edge true true 0x081#9) (withSlots 0x3F#8 0#8 0#8 0#8 0x06#8) = .next State.reset := rfl

/-! ### ENC and DEC (tables 2.1, 2.2) -/

theorem test_enc_seven : ({ State.reset with encDigit := 7#4 } : State).encSegOf defaultTable = 0x07#7 := by decide
theorem test_enc_zero_is_a_glyph : ({ State.reset with encDigit := 0#4 } : State).encSegOf defaultTable = 0x3F#7 := by decide
theorem test_dec_four : decPattern defaultTable 0x66#8 = .digit 4#4 := by decide
theorem test_dec_bit_seven : decPattern defaultTable 0xE6#8 = .unknownPattern 0xE6#8 ∧
    decPattern defaultTable 0x00#8 = .unknownPattern 0x00#8 := by decide

/-- The glyph of 4 lights UR, LR, UL and M (table of R80). -/
theorem test_glyph_four :
    [Segment.top, .upperRight, .lowerRight, .bottom, .lowerLeft, .upperLeft, .middle].map
        (segmentLit (zext8 (defaultTable.pat 4))) = [false, true, true, false, false, true, true] := by decide

/-! ### Host functions (tables 2.7 to 2.9) -/

theorem test_digitCount : digitCount 0 = 0 ∧ digitCount 9 = 1 ∧ digitCount 10 = 2 ∧ digitCount 417 = 3 := by decide
theorem test_digitCount_large : digitCount 99999 = 5 ∧ digitCount 100000 = 6 := by decide
theorem test_digitAt : digitAt 417 0 = some 7 ∧ digitAt 417 1 = some 1 ∧ digitAt 417 2 = some 4 ∧ digitAt 417 3 = none := by
  decide
theorem test_digitAt_zero : digitAt 0 0 = none ∧ digitAt 10 0 = some 0 ∧ digitAt 10 2 = none := by decide

/-- The calls of `showDecimal(1005)`: 5, 0, 0, 1. -/
theorem test_digitCalls_1005 :
    digitCalls 1005 =
      [.call (.setDigit 5 1), .call (.setDigit 0 2), .call (.setDigit 0 3), .call (.setDigit 1 4)] := by decide

/-- Exactly 10 is neither branch (S10). -/
theorem test_digitCalls_ten : digitCalls 10 = [] ∧ digitCalls 0 = [.call (.setDigit 0 1)] := by decide

/-- `setDigit(7, 1)` issues 0x117. -/
theorem test_setDigit_word :
    perform (.call (.setDigit 7 1)) State.reset = .next { State.reset with todo := [.edge false true 0x117#9] } := rfl

/-- A `readDecimal` whose read fails with -5. -/
theorem test_readDecimal_failure :
    step (answering (.call .readDecimal) [.returns (-5) 0x66#8]) =
      .next { State.reset with draws := 1, calls := [readCall], result := .transportFailure (-5) } := rfl

/-- A failing first setup write ends `powerOn` with its status. -/
theorem test_setup_failure :
    step (answering (.setup .oscOn 1) [.returns (-3) 0x00#8]) =
      .next { State.reset with draws := 2, calls := [busCommandCall .oscOn], result := .status (-3),
                               ds := Config.freeDisplay 1 } := rfl

/-! ### Assembler (R71, R72) -/

theorem test_asm_setd :
    assembleText ['S', 'e', 't', 'd', ' ', '4', ',', ' ', '3', ' ', ';', 'x'] = .ok [.edge false true 0x134#9] := rfl
theorem test_asm_fill_all : assembleText ['f', 'i', 'l', 'l', ' ', 'a', 'l', 'l'] = .ok [.edge false true 0x081#9] := rfl
theorem test_asm_hex : parseNumber ['0', 'x', 'f'] = some 15 := by decide
theorem test_asm_refused :
    assembleText ['f', 'i', 'l', 'l', ' ', '4'] = .error .operandTooWide ∧ assembleText ['s', 'e', 't'] = .error .notALine :=
  ⟨rfl, rfl⟩

theorem test_asm_program :
    assembleProgram [['t', 'e', 's', 't'], [' ', ';'], ['c', 'l', 'r', 'c']] =
      .ok [.edge false true 0x081#9, .edge false true 0x180#9] := rfl

/-! ### Witnesses for the statements -/

theorem witness_commandDecoder :
    (0x07F#9).toNat / 128 = 0 ∧ (0x0FF#9).toNat / 128 = 1 ∧ (0x17F#9).toNat / 128 = 2 ∧ (0x1FF#9).toNat / 128 = 3 ∧
      canonical 0x083#9 = 0x083#9 ∧ (encode (.setd 7#3 15#4)).1 = .cmd := by decide

theorem witness_ignoredBits :
    (0x0FD#9).toNat / 128 = (0x081#9).toNat / 128 ∧ (0x0FD#9).toNat / 128 = 1 ∧
      (0x0FD#9).toNat % 4 = (0x081#9).toNat % 4 := by decide

theorem witness_ignoredBits_setd :
    (0x134#9).toNat / 128 = 2 ∧ (0x134#9).toNat % 128 = (0x134#9).toNat % 128 ∧ (0x1A3#9).toNat / 128 = (0x180#9).toNat / 128 := by
  decide

theorem witness_stepRuns :
    (presenting (.edge false true 0x117#9)).todo = .edge false true 0x117#9 :: [] ∧
      (presenting (.encDigit 15#4)).todo = .encDigit 15#4 :: [] ∧
      (presenting (.decByte 0x66#8)).todo = .decByte 0x66#8 :: [] ∧
      decodeTableWord 16 0x1FF = some .clrc ∧ decodeTableWord 4 15 = some (.enc 15#4) ∧
      decodeTableWord 8 255 = some (.dec 255#8) := by decide

theorem witness_stepWithoutCommand :
    (presenting (.edge false false 0x081#9)).todo = .edge false false 0x081#9 :: [] ∧ State.reset.todo = [] := by decide

theorem witness_hardwareReset :
    (presenting (.edge true true 0x081#9)).todo = .edge true true 0x081#9 :: [] := by decide

theorem witness_fill_modes :
    (0#2).toNat = 0 ∧ (1#2).toNat = 1 ∧ 2 ≤ (2#2).toNat ∧ 2 ≤ (3#2).toNat ∧ (0 : Fin 10).val % 2 = 0 ∧ (8 : Fin 10).val % 2 = 0 := by
  decide

theorem witness_setd :
    posNumber .p1 = (1#3).toNat ∧ posNumber .p5 = (5#3).toNat ∧ (9#4).toNat < 10 ∧ 10 ≤ (10#4).toNat ∧
      (9 : Fin 10).val = 11 - 2 * (1#3).toNat ∧ (1 : Fin 10).val = 11 - 2 * (5#3).toNat ∧
      (0 : Fin 10).val ≠ 11 - 2 * (1#3).toNat ∧ (0#3).toNat = 0 ∧ 6 ≤ (6#3).toNat ∧ 6 ≤ (7#3).toNat := by decide

theorem witness_writeDecoder : writeDecoder 1#3 = some .p1 ∧ writeDecoder 5#3 = some .p5 := by decide

theorem witness_commandLaws :
    (1#3) ≠ 5#3 ∧ (0#4).toNat < 10 ∧ (9#4).toNat < 10 ∧ (1#2).toNat < 2 ∧ 2 ≤ (2#2).toNat ∧
      ((0#3).toNat = 0 ∨ 6 ≤ (0#3).toNat) ∧ ((6#3).toNat = 0 ∨ 6 ≤ (6#3).toNat) ∧
      1 ≤ (1#3).toNat ∧ (5#3).toNat ≤ 5 ∧ (9 : Fin 10).val = 11 - 2 * (1#3).toNat := by decide

theorem witness_idempotent :
    (∃ mode, Instr.fill 3#2 = .fill mode) ∧ ∃ pos d, Instr.setd 5#3 9#4 = .setd pos d ∧ d.toNat < 10 :=
  ⟨⟨_, rfl⟩, _, _, rfl, by decide⟩

theorem witness_enc : (9#4).toNat < 10 ∧ 10 ≤ (10#4).toNat ∧ 10 ≤ (15#4).toNat := by decide

/-- A byte the decoder knows, and a byte it does not know, for the machine's own table. -/
theorem witness_dec :
    zext8 (Config.segTable.pat 0) = zext8 (Config.segTable.pat 0) ∧
      (∀ d : Fin 10, zext8 (Config.segTable.pat d) ≠ 0x80#8) ∧ (0x80#8).getLsbD 7 = true := by
  refine ⟨rfl, fun d h => ?_, by decide⟩
  have := getLsbD_seven_zext8 (Config.segTable.pat d)
  rw [h] at this
  cases this

theorem witness_unencodable : 10 ≤ (10#4).toNat ∧ 10 ≤ (15#4).toNat ∧ writeDecoder 1#3 = some .p1 ∧ writeDecoder 5#3 = some .p5 := by decide

theorem witness_roundTrip : (0#4).toNat < 10 ∧ (9#4).toNat < 10 ∧ decPattern defaultTable 0x6F#8 = .digit 9#4 := by decide

theorem witness_views :
    (9 : Fin 10).val = 11 - 2 * posNumber .p1 ∧ (1 : Fin 10).val = 11 - 2 * posNumber .p5 ∧ (8 : Fin 10).val % 2 = 0 := by decide

/-- Every instruction answers a next state somewhere; a byte the SETD does not store. -/
theorem witness_frames :
    (∃ t, exec .nop State.reset = .next t) ∧ (∃ t, exec (.fill 1#2) State.reset = .next t) ∧
      (∃ t, exec (.setd 1#3 9#4) State.reset = .next t) ∧ (∃ t, exec .clrc State.reset = .next t) ∧
      (∃ t, exec (.enc 9#4) State.reset = .next t) ∧ (∃ t, exec (.dec 0x80#8) State.reset = .next t) ∧
      (7 : Fin 10).val ≠ 11 - 2 * (1#3).toNat ∧ writeDecoder 6#3 = none ∧ (∀ d, Instr.nop ≠ .enc d) ∧
      ∀ b, Instr.nop ≠ .dec b :=
  ⟨⟨_, rfl⟩, ⟨_, rfl⟩, ⟨_, rfl⟩, ⟨_, rfl⟩, ⟨_, rfl⟩, ⟨_, rfl⟩, by decide, by decide, nofun, nofun⟩

theorem witness_ready :
    (presenting (.edge false true 0x15A#9)).todo = .edge false true 0x15A#9 :: [] ∧
      (presenting (.encDigit 10#4)).todo = .encDigit 10#4 :: [] ∧
      (presenting (.decByte 0x80#8)).todo = .decByte 0x80#8 :: [] := by decide

/-- A step that writes all slots, from a state that meets the invariants. -/
theorem witness_bitSeven :
    BitSevenClear (presenting (.edge false true 0x081#9)) ∧
      ∃ t, step (presenting (.edge false true 0x081#9)) = .next t :=
  ⟨fun p => by cases p <;> decide, _, rfl⟩

theorem witness_slotsKnown :
    SlotsKnown (presenting (.edge false true 0x117#9)) ∧ KnownQueue (presenting (.edge false true 0x117#9)) ∧
      ∃ t, step (presenting (.edge false true 0x117#9)) = .next t := by
  refine ⟨fun p => by cases p <;> exact .inl rfl, ?_, _, rfl⟩
  intro a ha
  rw [List.mem_singleton.mp ha]
  exact fun _ => .inr (by decide)

/-- A host action and an edge, each with its next state. -/
theorem witness_onlyEdges :
    (presenting .clearLsv).todo = .clearLsv :: [] ∧ (∃ t, step (presenting .clearLsv) = .next t) ∧
      (∀ rst valid w, Action.clearLsv ≠ .edge rst valid w) ∧
      (∃ t, step (presenting (.edge false true 0x081#9)) = .next t) ∧
      ∃ rst valid w, Action.edge false true 0x081#9 = .edge rst valid w :=
  ⟨rfl, ⟨_, rfl⟩, nofun, ⟨_, rfl⟩, _, _, _, rfl⟩

theorem witness_lsvRead :
    (∃ t, step (answering .showWrite [ok]) = .next t) ∧ step (answering .showWrite [.never]) = .fault .transportHang ∧
      step (presenting (.call (.digitAt 0 (-1)))) = .refused .negativeArgument := ⟨⟨_, rfl⟩, rfl, rfl⟩

theorem witness_dsRead :
    (∃ t, step (answering (.call .powerOff) [failed]) = .next t) ∧
      step (answering (.call .powerOff) [.never]) = .fault .transportHang ∧
      step (presenting (.call (.setDigit (-1) 1))) = .refused .digitHasNoEncoding := ⟨⟨_, rfl⟩, rfl, rfl⟩

theorem witness_stops :
    step (answering .frame [.never]) = .fault .transportHang ∧
      step (presenting (.call (.showDecimal (-1)))) = .refused .negativeArgument ∧
      step (presenting (.call (.setDigit 16 5))) = .refused .digitHasNoEncoding := ⟨rfl, rfl, rfl⟩

theorem witness_displayState :
    (∃ t, step (answering (.call .powerOff) [ok]) = .next t) ∧ (∃ t, step (answering (.powerOnWrite 2) [ok]) = .next t) ∧
      (∃ t, step (answering (.setup .brightness 0) [failed]) = .next t) ∧ (∃ t, step (answering .showWrite [ok]) = .next t) ∧
      ∃ t, step { presenting (.edge true false 0#9) with ds := .showAll } = .next t ∧ t.ds ≠ .showAll :=
  ⟨⟨_, rfl⟩, ⟨_, rfl⟩, ⟨_, rfl⟩, ⟨_, rfl⟩, _, rfl, by decide⟩

theorem witness_displayState_modes : (0 : Int) ≤ 0 ∧ (2 : Int) ≠ 0 ∧ (2 : Int) ≠ 1 ∧ (-1 : Int) ≠ 0 ∧ (-1 : Int) ≠ 1 := by decide

theorem witness_lsv :
    (∃ t, step (presenting (.edge true true 0x1FF#9)) = .next t) ∧ (∃ t, step (presenting .clearLsv) = .next t) ∧
      (∃ t, step (answering .showWrite [failed]) = .next t) ∧
      ∃ t, step (presenting (.encDigit 12#4)) = .next t :=
  ⟨⟨_, rfl⟩, ⟨_, rfl⟩, ⟨_, rfl⟩, _, rfl⟩

theorem witness_digitCount :
    1 ≤ 1 ∧ 99999 < 10 ^ 5 ∧ (presenting (.call (.digitCount (417 : Nat)))).todo = .call (.digitCount (417 : Nat)) :: [] := by decide

theorem witness_digitAt :
    10 ^ 2 ≤ 417 ∧ 417 < 10 ^ 3 ∧ 0 < 10 ^ 0 ∧ 1 < 10 ^ 1 ∧ digitAt 417 2 = some 4 ∧ digitAt 417 3 = none ∧
      (presenting (.call (.digitAt (417 : Nat) (3 : Nat)))).todo = .call (.digitAt (417 : Nat) (3 : Nat)) :: [] := by decide

theorem witness_setDigit :
    (presenting (.call (.setDigit 15 5))).todo = .call (.setDigit 15 5) :: [] ∧ (5 : Int) = ((5#3).toNat : Int) ∧
      (15 : Int) = ((15#4).toNat : Int) ∧ (1 : Int) ≤ 5 ∧ ((0 : Int) < 1 ∨ (5 : Int) < 0) ∧ ((6 : Int) < 1 ∨ (5 : Int) < 6) ∧
      ((-1 : Int) < 0 ∨ (15 : Int) < -1) ∧ ((16 : Int) < 0 ∨ (15 : Int) < 16) := by decide

theorem witness_hostReset :
    (presenting (.call (.reset 0))).todo = .call (.reset 0) :: [] ∧ (presenting (.call (.reset 1))).todo = .call (.reset 1) :: [] ∧
      (presenting (.call (.reset 2))).todo = .call (.reset 2) :: [] ∧
      (presenting (.call (.reset 4))).todo = .call (.reset 4) :: [] := by decide

theorem witness_powerOnFailure :
    (answering (.call (.powerOn 1)) [failed]).answers = .returns (-1) 0x00#8 :: [] ∧
      (answering (.call (.powerOn 1)) [ok, failed]).answers = .returns 0 0x00#8 :: .returns (-1) 0x00#8 :: [] ∧
      (answering (.call (.powerOn 1)) [ok, ok, failed]).answers =
        .returns 0 0x00#8 :: .returns 0 0x00#8 :: .returns (-1) 0x00#8 :: [] ∧
      (answering (.call (.powerOn 1)) [failed]).todo = .call (.powerOn 1) :: [] := by decide

/-- Modes 0 and 1, an invalid mode that fits the field and two that do not; a final write that succeeds and one that fails. -/
theorem witness_powerOn :
    (∀ m ∈ [(0 : Int), 1, 3, 4, -1], (answering (.call (.powerOn m)) [ok, ok, ok, ok]).todo = .call (.powerOn m) :: []) ∧
      (answering (.call (.powerOn 0)) [ok, ok, ok, ok]).answers =
        .returns 0 0x00#8 :: .returns 0 0x00#8 :: .returns 0 0x00#8 :: .returns 0 0x00#8 :: [] ∧
      (answering (.call (.powerOn 1)) [ok, ok, ok, failed]).todo = .call (.powerOn 1) :: [] ∧
      (answering (.call (.powerOn 1)) [ok, ok, ok, failed]).answers =
        .returns 0 0x00#8 :: .returns 0 0x00#8 :: .returns 0 0x00#8 :: .returns (-1) 0x00#8 :: [] ∧
      (3 : Int) ≠ 0 ∧ (3 : Int) ≠ 1 ∧ (-1 : Int) ≠ 0 ∧ (-1 : Int) ≠ 1 := by decide

theorem witness_powerOff :
    (answering (.call .powerOff) [failed]).todo = .call .powerOff :: [] ∧
      (answering (.call .powerOff) [failed]).answers = .returns (-1) 0x00#8 :: [] := by decide

/-- The values where the branches meet (R110), a final write that succeeds and one that fails. -/
theorem witness_showDecimal :
    (∀ v ∈ [0, 9, 10, 11, 99999], (answering (.call (.showDecimal (v : Nat))) [ok, ok, ok, ok, ok]).todo =
        .call (.showDecimal (v : Nat)) :: []) ∧
      (answering (.call (.showDecimal (11 : Nat))) [ok, ok, ok, ok, ok]).answers =
        .returns 0 0x00#8 :: .returns 0 0x00#8 :: .returns 0 0x00#8 :: .returns 0 0x00#8 :: .returns 0 0x00#8 :: [] ∧
      (answering (.call (.showDecimal (10 : Nat))) [ok, ok, ok, ok, failed]).todo = .call (.showDecimal (10 : Nat)) :: [] ∧
      (answering (.call (.showDecimal (99999 : Nat))) [ok, ok, ok, ok, failed]).answers =
        .returns 0 0x00#8 :: .returns 0 0x00#8 :: .returns 0 0x00#8 :: .returns 0 0x00#8 :: .returns (-1) 0x00#8 :: [] := by
  decide

/-- A failure at each of the three setup writes. -/
theorem witness_showDecimal_failedPowerOn :
    (answering (.call (.showDecimal (417 : Nat))) [failed, ok]).todo = .call (.showDecimal (417 : Nat)) :: [] ∧
      (answering (.call (.showDecimal (417 : Nat))) [failed, ok]).answers =
        .returns (-1) 0x00#8 :: .returns 0 0x00#8 :: [] ∧
      (answering (.call (.showDecimal (10 : Nat))) [ok, failed, ok]).answers =
        .returns 0 0x00#8 :: .returns (-1) 0x00#8 :: .returns 0 0x00#8 :: [] ∧
      (answering (.call (.showDecimal (0 : Nat))) [ok, ok, failed, failed]).answers =
        .returns 0 0x00#8 :: .returns 0 0x00#8 :: .returns (-1) 0x00#8 :: .returns (-1) 0x00#8 :: [] ∧
      (-1 : Int) < 0 ∧ (0 : Int) ≤ 0 := by decide

/-- A read that fails, a byte the decoder does not know, and a byte it knows for the machine's own table. -/
theorem witness_readDecimal :
    (answering (.call .readDecimal) [.returns (-1) 0x80#8]).todo = .call .readDecimal :: [] ∧
      (answering (.call .readDecimal) [.returns (-1) 0x80#8]).answers = .returns (-1) 0x80#8 :: [] ∧ (-1 : Int) < 0 ∧
      (answering (.call .readDecimal) [.returns 0 0x80#8]).answers = .returns 0 0x80#8 :: [] ∧
      (∀ d : Fin 10, zext8 (Config.segTable.pat d) ≠ 0x80#8) ∧
      (answering (.call .readDecimal) [.returns 0 (zext8 (Config.segTable.pat 9))]).answers =
        .returns 0 (zext8 (Config.segTable.pat 9)) :: [] ∧ (0 : Int) ≤ 0 :=
  ⟨rfl, rfl, by decide, rfl, witness_dec.2.1, rfl, by decide⟩

theorem witness_frameAction :
    (answering .frame [failed]).todo = .frame :: [] ∧ (answering .frame [failed]).answers = .returns (-1) 0x00#8 :: [] := by decide

theorem witness_negative :
    (-1 : Int) < 0 ∧ (presenting (.call (.showDecimal (-1)))).todo = .call (.showDecimal (-1)) :: [] ∧
      (presenting (.call (.digitCount (-1)))).todo = .call (.digitCount (-1)) :: [] ∧
      (presenting (.call (.digitAt (-1) 0))).todo = .call (.digitAt (-1) 0) :: [] ∧
      (presenting (.call (.digitAt 0 (-1)))).todo = .call (.digitAt 0 (-1)) :: [] := by decide

theorem witness_hang :
    (answering (.setup .oscOn 0) [.never]).todo = .setup .oscOn 0 :: [] ∧
      (answering (.setup .oscOn 0) [.never]).answers = .never :: [] := by decide

theorem witness_assembler : 3 ≤ 3 ∧ 3 < 4 ∧ 15 ≤ 15 ∧ 7 ≤ 7 ∧ 15 < 16 ∧ 7 < 8 := by decide

end Sys2Proof.Tests
end

section
/-! The pseudo-instructions of the assembler (R72), one equation for each row of the rule's table. -/
namespace Sys2Proof.Machine

theorem expand_reset (m : Nat) : expand (.reset m) = expand (.fill m) := rfl

theorem expand_blank : expand .blank = expand (.fill 0) := rfl

theorem expand_test : expand .test = expand (.fill 1) := rfl

theorem expand_show1 (d : Nat) :
    expand (.show1 d) = expand (.fill 0) ++ expand .clrc ++ expand (.setd d 1) := rfl

/-- The row with no command word: only the mark at which the host samples the frame. -/
theorem expand_frame : expand .frame = [.frame] := rfl

/-- Settles O51: the rows of R72's table, each an equation of `expand`. -/
theorem pseudoInstructionsExpand : Obligations.PseudoInstructionsExpand :=
  ⟨expand_reset, expand_blank, expand_test, expand_show1, expand_frame⟩

end Sys2Proof.Machine
end

section
/-! The segment table as a code between digits and bytes (R83, R85): which bytes are read as a digit, and as which one. -/
namespace Sys2Proof.Machine

/-- A byte is read as a digit exactly when it is the extended table entry of that digit (R83). -/
theorem decPattern_eq_digit (T : SegTable) (b : Byte) (d : DigitBits) :
    decPattern T b = .digit d ↔ ∃ h : d.toNat < 10, zext8 (T.pat ⟨d.toNat, h⟩) = b := by
  constructor
  · intro hd
    cases hf : decDigit T b with
    | none => simp [decPattern_of_none hf] at hd
    | some e =>
      obtain rfl : BitVec.ofNat 4 e.val = d := by simpa [decPattern_of_some hf] using hd
      have he : (BitVec.ofNat 4 e.val).toNat = e.val := by
        rw [BitVec.toNat_ofNat, Nat.mod_eq_of_lt (by omega)]
      have hpat : zext8 (T.pat e) = b := (decDigit_eq_some T b e).mp hf
      simpa [he] using hpat
  · rintro ⟨h, hpat⟩
    simpa using decPattern_of_some ((decDigit_eq_some T b ⟨d.toNat, h⟩).mpr hpat)

/-- A byte that is no extended table entry is an unknown pattern (R83). -/
theorem decPattern_of_ne {T : SegTable} {b : Byte} (h : ∀ d, zext8 (T.pat d) ≠ b) :
    decPattern T b = .unknownPattern b :=
  decPattern_of_none ((decDigit_eq_none T b).mpr h)

/-- The match is on all eight bits: a byte with bit 7 set is no extended pattern (R83). -/
theorem zext8_ne_of_getLsbD_seven {b : Byte} (h : b.getLsbD 7 = true) (p : Pattern) : zext8 p ≠ b := by
  rintro rfl
  rw [getLsbD_seven_zext8] at h
  cases h

/-- DEC of a digit's code is the digit (R85). -/
theorem decPattern_encPattern (T : SegTable) {d : DigitBits} (free : Pattern) (h : d.toNat < 10) :
    decPattern T (zext8 (encPattern T d free)) = .digit d :=
  (decPattern_eq_digit T _ d).mpr ⟨h, by rw [encPattern_of_lt T free h]⟩

/-- Settles O21: both laws are read off the digits' codes, `decPattern_eq_digit`. -/
theorem encodeDecodeRoundTrip : Obligations.EncodeDecodeRoundTrip := by
  intro T free
  refine ⟨fun d h => decPattern_encPattern T free h, fun b d hb => ?_⟩
  obtain ⟨h, hpat⟩ := (decPattern_eq_digit T b d).mp hb
  exact ⟨h, by rw [encPattern_of_lt T free h, hpat]⟩

end Sys2Proof.Machine
end

section
/-! The two function ports of the machine: the step at each port and the output that follows it (R81, R83, R131). -/
namespace Sys2Proof.Machine

theorem exec_enc (d : DigitBits) (s : State) : exec (.enc d) s = .next (s.driveEncoder d) := rfl

theorem exec_dec (b : Byte) (s : State) : exec (.dec b) s = .next (s.driveDecoder b) := rfl

/-- Driving the encoder with a decimal digit draws no free value. -/
theorem State.driveEncoder_of_lt (s : State) {d : DigitBits} (h : d.toNat < 10) :
    s.driveEncoder d = { s with encDigit := d } := by
  simp [State.driveEncoder, drawsAfterEnc, h]

theorem State.encSeg_driveEncoder_of_lt (s : State) {d : DigitBits} (h : d.toNat < 10) :
    (s.driveEncoder d).encSeg = Config.segTable.pat ⟨d.toNat, h⟩ :=
  encPattern_of_lt Config.segTable _ h

/-- The output after a byte that is the code of a digit. -/
theorem State.decOut_driveDecoder_of_eq (s : State) {b : Byte} {d : Fin 10}
    (h : zext8 (Config.segTable.pat d) = b) : (s.driveDecoder b).decOut = .digit (BitVec.ofNat 4 d.val) :=
  decPattern_of_some ((decDigit_eq_some Config.segTable b d).mpr h)

/-- The output after a byte that is the code of no digit. -/
theorem State.decOut_driveDecoder_of_ne (s : State) {b : Byte} (h : ∀ d, zext8 (Config.segTable.pat d) ≠ b) :
    (s.driveDecoder b).decOut = .unknownPattern b :=
  decPattern_of_ne h

/-- Settles O18: a known byte, an unknown byte, and a byte with bit 7 set, which is unknown. -/
theorem decPortAnswersExactly : Obligations.DecPortAnswersExactly := by
  intro s b
  refine ⟨s.driveDecoder b, exec_dec b s, rfl, fun d hd => ?known, fun hne => ?unknown, fun h7 => ?bitSeven⟩
  case known =>
    rw [s.decOut_driveDecoder_of_eq hd]
    exact ⟨rfl, rfl⟩
  case unknown =>
    rw [s.decOut_driveDecoder_of_ne hne]
    exact ⟨rfl, rfl⟩
  case bitSeven =>
    rw [s.decOut_driveDecoder_of_ne fun _ => zext8_ne_of_getLsbD_seven h7 _]
    rfl

/-- Settles O17: beside the digit on the pins, only the counter of the free values can move. -/
theorem encPortShowsTableEntry : Obligations.EncPortShowsTableEntry := by
  intro s d
  have hslots : SameSlots s (s.driveEncoder d) := fun p => (s.slot_driveEncoder d p).symm
  have hout : SameOutside { s with encDigit := d } (s.driveEncoder d) := ⟨rfl, rfl, rfl, rfl, rfl, rfl, rfl, rfl⟩
  exact ⟨s.driveEncoder d, exec_enc d s, rfl,
    fun h => ⟨s.encSeg_driveEncoder_of_lt h, s.driveEncoder_of_lt h⟩, hslots, hout⟩

end Sys2Proof.Machine
end

section
/-! NOP (R90), and FILL (R91): its word, the modes that write, the fields it leaves alone,
and that a second FILL of the same mode does nothing. -/
namespace Sys2Proof.Machine

theorem exec_nop (s : State) : exec .nop s = .next s := rfl

theorem exec_fill (m : ModeBits) (s : State) : exec (.fill m) s = .next (s.fill m) := rfl

/-- An edge with `cmd_valid` = 0 is NOP, whatever word stands on the port. -/
theorem perform_edge_without_command (w : CmdWord) (s : State) : perform (.edge false false w) s = exec .nop s := rfl

/-- Settles O10: the word of NOP, the command itself, and an edge without a command, which is NOP. -/
theorem nopLeavesStateUnchanged : Obligations.NopLeavesStateUnchanged :=
  ⟨by decide, fun s => ⟨exec_nop s, fun w => (perform_edge_without_command w s).trans (exec_nop s)⟩⟩

/-- A FILL writes nothing exactly for the modes 2 and 3. -/
theorem fillPattern_eq_none : ∀ m, fillPattern m = none ↔ 2 ≤ m.toNat := by decide

theorem toNat_fillWord : ∀ m, (fillWord m).toNat = 0x080 + m.toNat := by decide

theorem State.sameOutside_fill (s : State) (m : ModeBits) : SameOutside s (s.fill m) := by
  rcases fill_cases m s with e | ⟨v, e⟩ <;> rw [e]
  · exact ⟨rfl, rfl, rfl, rfl, rfl, rfl, rfl, rfl⟩
  · exact ⟨rfl, rfl, rfl, rfl, rfl, rfl, rfl, rfl⟩

theorem State.fill_draws (s : State) (m : ModeBits) : (s.fill m).draws = s.draws := by
  rcases fill_cases m s with e | ⟨v, e⟩ <;> rw [e]
  rfl

theorem State.fill_fill (s : State) (m : ModeBits) : (s.fill m).fill m = s.fill m := by
  cases h : fillPattern m with
  | none => rw [State.fill_of_none h, State.fill_of_none h]
  | some v =>
    rw [State.fill_of_some h, State.fill_of_some h]
    rfl

/-- Settles O11: the next state is `State.fill`, which stores the mode's pattern in every slot, or nothing. -/
theorem fillWritesEverySlot : Obligations.FillWritesEverySlot := by
  intro s m
  refine ⟨congrArg (Prod.mk Port.cmd) (toNat_fillWord m), s.fill m, exec_fill m s, ?none, ?all, ?invalid,
    (s.fill m).fb_even, s.sameOutside_fill m, s.fill_draws m, ?twice⟩
  case none =>
    intro hm p
    obtain rfl : m = 0#2 := BitVec.eq_of_toNat_eq hm
    rw [State.slot_fill, fillPattern_none]
    rfl
  case all =>
    intro hm p
    obtain rfl : m = 1#2 := BitVec.eq_of_toNat_eq hm
    rw [State.slot_fill, fillPattern_all]
    rfl
  case invalid =>
    intro hm
    exact State.fill_of_none ((fillPattern_eq_none m).mpr hm) s
  case twice => rw [exec_fill, State.fill_fill]

end Sys2Proof.Machine
end

section
/-! SETD (R92) and the write decoder (R93): the one slot, hence the one byte, that the command can change. -/
namespace Sys2Proof.Machine

theorem exec_setd (pos : PosBits) (d : DigitBits) (s : State) :
    exec (.setd pos d) s = .next (s.storeDigit Config.segTable pos d) := rfl

theorem toNat_setdWord : ∀ pos d, (setdWord pos d).toNat = 0x100 + 16 * pos.toNat + d.toNat := by decide

/-- The frame-buffer index of the slot that the write decoder enables. -/
theorem posIndex_of_writeDecoder {pos : PosBits} {p : Pos} (h : writeDecoder pos = some p) :
    posIndex p = 11 - 2 * pos.toNat := by
  rw [(writeDecoder_eq_some pos p).mp h]
  rfl

theorem State.fb_of_eq_posIndex (s : State) {i : Fin 10} {p : Pos} (h : i.val = posIndex p) : s.fb i = s.slot p := by
  obtain rfl : i = ⟨posIndex p, posIndex_lt p⟩ := Fin.ext h
  exact s.fb_posIndex p

/-- States that agree in every slot but one agree in every byte but that slot's. -/
theorem State.fb_congr_of_ne_posIndex {s t : State} {p : Pos} (h : ∀ q, q ≠ p → s.slot q = t.slot q) {i : Fin 10}
    (hi : i.val ≠ posIndex p) : s.fb i = t.fb i := by
  unfold State.fb
  split
  next q hq =>
    have hqp : q ≠ p := by
      rintro rfl
      exact hi ((slotAt_eq_some i q).mp hq)
    exact h q hqp
  next => rfl

theorem State.sameOutside_storeDigit (T : SegTable) (s : State) (pos : PosBits) (d : DigitBits) :
    SameOutside s (s.storeDigit T pos d) := by
  rcases storeDigit_cases T pos d s with e | ⟨p, v, n, e⟩ <;> rw [e]
  · exact ⟨rfl, rfl, rfl, rfl, rfl, rfl, rfl, rfl⟩
  · simp [SameOutside]

/-- Settles O12: at a valid position the next state is `State.storeDigit`, whose slots say which byte changes; at any other
position it is the same state. -/
theorem setdWritesOneSlot : Obligations.SetdWritesOneSlot := by
  intro s pos d
  refine ⟨congrArg (Prod.mk Port.cmd) (toNat_setdWord pos d), fun p hpos => ?valid, fun hpos => ?invalid⟩
  case valid =>
    have hp : writeDecoder pos = some p := (writeDecoder_eq_some pos p).mpr hpos.symm
    have hself := State.slot_storeDigit_self (T := Config.segTable) hp s d
    have hother : ∀ q, q ≠ p → (s.storeDigit Config.segTable pos d).slot q = s.slot q := fun q hq =>
      State.slot_storeDigit_of_ne (fun e => hq (Option.some.inj (e.symm.trans hp))) s d
    refine ⟨_, exec_setd pos d s, fun hd => ?_, ?_, hother, ?_, ?_, s.sameOutside_storeDigit _ pos d⟩
    · rw [hself, encPattern_of_lt _ _ hd]
    · rw [hself, getLsbD_seven_zext8]
    · exact fun i hi => State.fb_of_eq_posIndex _ (hi.trans (posIndex_of_writeDecoder hp).symm)
    · exact fun i hi => State.fb_congr_of_ne_posIndex hother (posIndex_of_writeDecoder hp ▸ hi)
  case invalid =>
    have hnone : writeDecoder pos = none := (writeDecoder_eq_none pos).mpr hpos
    rw [exec_setd, State.storeDigit_of_none hnone]

/-- Settles O13: the eight rows of the decoder's table, the index of the slot each enables, and the five stored bytes. -/
theorem writeDecoderTable : Obligations.WriteDecoderTable := by
  refine ⟨rfl, rfl, rfl, rfl, rfl, rfl, rfl, rfl, fun _ _ => posIndex_of_writeDecoder, fun s => ?_⟩
  exact ⟨s.fb_posIndex .p1, s.fb_posIndex .p2, s.fb_posIndex .p3, s.fb_posIndex .p4, s.fb_posIndex .p5⟩

end Sys2Proof.Machine
end

section
/-! The readout of the frame buffer (R95): the sequence of bytes, the 80 bits of `fb_q`, and the transport call. -/
namespace Sys2Proof.Machine

/-- Reading all ten bytes is FRAME. -/
theorem State.memRead_all (s : State) : s.memRead 0 10 = some s.frame := rfl

/-- The `i`-th lowest 8-bit lane of `x` is the byte `f i`. -/
def LanesAre {w n : Nat} (x : BitVec w) (f : Fin n → Byte) : Prop :=
  ∀ i : Fin n, x.extractLsb' (8 * i.val) 8 = f i

theorem lanesAre_single (f : Fin 1 → Byte) : LanesAre (f 0) f := by
  intro i
  rw [Subsingleton.elim i 0]
  exact BitVec.extractLsb'_eq_self

/-- A byte appended below is lane 0 and moves every other lane up by one. -/
theorem LanesAre.append {w n : Nat} {x : BitVec w} {f : Fin (n + 1) → Byte} (h : LanesAre x fun i => f i.succ) :
    LanesAre (x ++ f 0) f := by
  intro i
  cases i using Fin.cases with
  | zero => exact BitVec.extractLsb'_append_eq_right
  | succ j =>
    have hstart : 8 * j.succ.val - 8 = 8 * j.val := by rw [Fin.val_succ]; omega
    rw [BitVec.extractLsb'_append_eq_of_le (by rw [Fin.val_succ]; omega), hstart]
    exact h j

/-- `fb_q` is the frame's bytes, each appended below the ones of higher index. -/
theorem State.lanesAre_fbQ (s : State) : LanesAre s.fbQ s.fb :=
  (lanesAre_single _).append.append.append.append.append.append.append.append.append

/-- Settles O23: the frame written out, the read of all ten bytes, the lanes of `fb_q`, and the call's arguments. -/
theorem frameReadout : Obligations.FrameReadout :=
  fun s => ⟨s.frame_eq, s.memRead_all, s.lanesAre_fbQ, rfl⟩

end Sys2Proof.Machine
end

section
/-! Digit extraction (R102, R103): the digit count against the powers of ten, the places a value has, and the two calls. -/
namespace Sys2Proof.Machine

/-- The values of at most `n` digits are the values below `10 ^ n`. -/
theorem digitCount_le_iff {v n : Nat} : digitCount v ≤ n ↔ v < 10 ^ n := by
  induction n generalizing v with
  | zero =>
    by_cases hv : v = 0
    · simp [hv]
    · simp [digitCount_step hv, hv]
  | succ n ih =>
    by_cases hv : v = 0
    · simp [hv]
    · rw [digitCount_step hv, Nat.add_le_add_iff_right, ih, Nat.div_lt_iff_lt_mul (by decide), Nat.pow_succ]

theorem lt_digitCount_iff {v i : Nat} : i < digitCount v ↔ 10 ^ i ≤ v := by
  rw [← Nat.not_le, digitCount_le_iff, Nat.not_lt]

/-- The sentinel is exactly for the places from the count on; the value 0 has none. -/
theorem digitAt_eq_none_iff {v i : Nat} : digitAt v i = none ↔ digitCount v ≤ i := by
  constructor
  · intro h
    by_contra hlt
    rw [digitAt_of_lt (Nat.not_le.mp hlt)] at h
    cases h
  · intro h
    simp [digitAt, Nat.lt_succ_of_le h]

theorem step_digitCount {s : State} {v : Nat} {rest : List Action} (h : s.todo = .call (.digitCount v) :: rest) :
    step s = .next { s.tick with todo := rest, result := .count (digitCount v) } := by
  rw [step_cons h]
  simp [perform, hostCall, callDigitCount]

theorem step_digitAt_digit {s : State} {v i d : Nat} {rest : List Action}
    (h : s.todo = .call (.digitAt v i) :: rest) (hd : digitAt v i = some d) :
    step s = .next { s.tick with todo := rest, result := .digit d } := by
  rw [step_cons h]
  simp [perform, hostCall, callDigitAt, hd]

theorem step_digitAt_invalid {s : State} {v i : Nat} {rest : List Action}
    (h : s.todo = .call (.digitAt v i) :: rest) (hd : digitAt v i = none) :
    step s = .next { s.tick with todo := rest, result := .invalid } := by
  rw [step_cons h]
  simp [perform, hostCall, callDigitAt, hd]

/-- Settles O37: `digitCount_le_iff` read in both directions, and the step of the call. -/
theorem digitCountIsLeastPower : Obligations.DigitCountIsLeastPower :=
  ⟨digitCount_zero, fun _ _ => ⟨digitCount_le_iff.mp le_rfl, fun _ => digitCount_le_iff.mpr⟩,
    fun _ _ _ => step_digitCount⟩

/-- Settles O38: a place below the count has its digit, any other is invalid; the value 0 has the count 0. -/
theorem digitAtReadsEveryPlace : Obligations.DigitAtReadsEveryPlace := by
  refine ⟨fun v i => ⟨fun h => ?digit, fun h => ?invalid⟩, fun v i => ?sentinel, fun s rest v i h => ?call⟩
  case digit => exact digitAt_of_lt (lt_digitCount_iff.mpr h)
  case invalid => exact digitAt_eq_none_iff.mpr (digitCount_le_iff.mpr h)
  case sentinel =>
    have hzero : v = 0 → digitCount v = 0 := fun hv => hv ▸ digitCount_zero
    rw [digitAt_eq_none_iff]
    omega
  case call => exact ⟨fun _ => step_digitAt_digit h, step_digitAt_invalid h⟩

end Sys2Proof.Machine
end

section
/-! Host `powerOff` (R108): one transport write, and the block is left as it is. -/
namespace Sys2Proof.Machine

/-- Settles O43: the next state that `step_powerOff` gives updates only the host's fields and the counter. -/
theorem powerOffSendsOneCommand : Obligations.PowerOffSendsOneCommand := by
  intro s rest st b later h ha
  exact ⟨_, step_powerOff h ha, rfl, rfl, fun _ => rfl, rfl, rfl, rfl, rfl, rfl⟩

end Sys2Proof.Machine
end

section
/-! The words of the command port (R61 to R63, R73): the opcode of a word as a number, the decoder by opcode, and the encoder
as its inverse. -/
namespace Sys2Proof

/-! ### The fields of a word, read off its number -/

theorem toNat_cmdOp (w : CmdWord) : (cmdOp w).toNat = w.toNat / 128 := by
  have hw := w.isLt
  rw [cmdOp, BitVec.extractLsb'_toNat, Nat.shiftRight_eq_div_pow]
  omega

theorem cmdOp_eq_iff (w : CmdWord) (op : BitVec 2) : cmdOp w = op ↔ w.toNat / 128 = op.toNat := by
  rw [← BitVec.toNat_inj, toNat_cmdOp]

theorem cmdMode_eq_ofNat (w : CmdWord) : cmdMode w = BitVec.ofNat 2 (w.toNat % 4) := by
  apply BitVec.eq_of_toNat_eq
  rw [cmdMode, BitVec.extractLsb'_toNat, Nat.shiftRight_zero, BitVec.toNat_ofNat]
  omega

theorem cmdPos_eq_ofNat (w : CmdWord) : cmdPos w = BitVec.ofNat 3 (w.toNat / 16 % 8) := by
  apply BitVec.eq_of_toNat_eq
  rw [cmdPos, BitVec.extractLsb'_toNat, Nat.shiftRight_eq_div_pow, BitVec.toNat_ofNat]
  omega

theorem cmdDigit_eq_ofNat (w : CmdWord) : cmdDigit w = BitVec.ofNat 4 (w.toNat % 16) := by
  apply BitVec.eq_of_toNat_eq
  rw [cmdDigit, BitVec.extractLsb'_toNat, Nat.shiftRight_zero, BitVec.toNat_ofNat]
  omega

/-! ### The decoder by opcode -/

theorem decodeCmd_of_op_nop {w : CmdWord} (h : cmdOp w = 0b00#2) : decodeCmd w = .nop := by simp [decodeCmd, h]

theorem decodeCmd_of_op_fill {w : CmdWord} (h : cmdOp w = 0b01#2) : decodeCmd w = .fill (cmdMode w) := by
  simp [decodeCmd, h]

theorem decodeCmd_of_op_setd {w : CmdWord} (h : cmdOp w = 0b10#2) :
    decodeCmd w = .setd (cmdPos w) (cmdDigit w) := by simp [decodeCmd, h]

theorem decodeCmd_of_op_clrc {w : CmdWord} (h : cmdOp w = 0b11#2) : decodeCmd w = .clrc := by simp [decodeCmd, h]

theorem op_cases : ∀ op : BitVec 2, op = 0b00#2 ∨ op = 0b01#2 ∨ op = 0b10#2 ∨ op = 0b11#2 := by decide

/-! ### Decoding and encoding are inverse -/

/-- Encoding what a word decodes to gives the word's canonical spelling (R62, R73). -/
theorem encode_decodeCmd (w : CmdWord) : encode (decodeCmd w) = (.cmd, (canonical w).toNat) := by
  revert w
  decide

theorem decodeCmd_encode {i : Instr} (h : (encode i).1 = .cmd) : decodeCmd (BitVec.ofNat 9 (encode i).2) = i := by
  cases i with
  | nop => rfl
  | clrc => rfl
  | fill m => simpa [encode] using decodeCmd_fillWord m
  | setd p d => simpa [encode] using decodeCmd_setdWord p d
  | enc d => cases h
  | dec b => cases h

/-- The word of every instruction fits its port. -/
theorem encode_fits (i : Instr) : (encode i).2 < 2 ^ portWidth (encode i).1 := by
  cases i with
  | nop => exact Laws.EncodedFits.nop
  | fill m => exact Laws.EncodedFits.fill m
  | setd p d => exact Laws.EncodedFits.setd p d
  | clrc => exact Laws.EncodedFits.clrc
  | enc d => exact Laws.EncodedFits.enc d
  | dec b => exact Laws.EncodedFits.dec b

/-- Settles O1: the word fits its port, so that only the port's own decoder remains, which reads the word back. -/
theorem decoderReadsEncodedInstruction : Obligations.DecoderReadsEncodedInstruction := by
  intro i
  rw [decode_of_fits (encode_fits i)]
  cases i with
  | enc d => simp [encode]
  | dec b => simp [encode]
  | nop | fill | setd | clrc => exact congrArg Except.ok (decodeCmd_encode rfl)

/-- Settles O2: the decoder by opcode with the fields as numbers, and the two round trips. -/
theorem commandDecoderIsTotalAndInverse : Obligations.CommandDecoderIsTotalAndInverse := by
  refine ⟨fun w => ⟨fun h => ?nop, fun h => ?fill, fun h => ?setd, fun h => ?clrc⟩, fun w h => ?canonical,
    fun _ => decodeCmd_encode⟩
  case nop => exact decodeCmd_of_op_nop ((cmdOp_eq_iff w _).mpr h)
  case fill => rw [decodeCmd_of_op_fill ((cmdOp_eq_iff w _).mpr h), cmdMode_eq_ofNat]
  case setd => rw [decodeCmd_of_op_setd ((cmdOp_eq_iff w _).mpr h), cmdPos_eq_ofNat, cmdDigit_eq_ofNat]
  case clrc => exact decodeCmd_of_op_clrc ((cmdOp_eq_iff w _).mpr h)
  case canonical => rw [encode_decodeCmd, h]

/-- Settles O3: the two words have the same opcode, and the fields that its format uses are equal numbers. -/
theorem ignoredBitsHaveNoEffect : Obligations.IgnoredBitsHaveNoEffect := by
  intro w v hop hmode hlow
  have hv : cmdOp w = cmdOp v := (cmdOp_eq_iff w _).mpr (hop.trans (toNat_cmdOp v).symm)
  rcases op_cases (cmdOp w) with h | h | h | h
  · rw [decodeCmd_of_op_nop h, decodeCmd_of_op_nop (hv ▸ h)]
  · rw [decodeCmd_of_op_fill h, decodeCmd_of_op_fill (hv ▸ h), cmdMode_eq_ofNat, cmdMode_eq_ofNat,
      hmode ((cmdOp_eq_iff w _).mp h)]
  · have hlow := hlow ((cmdOp_eq_iff w _).mp h)
    have hpos : w.toNat / 16 % 8 = v.toNat / 16 % 8 := by omega
    have hdigit : w.toNat % 16 = v.toNat % 16 := by omega
    rw [decodeCmd_of_op_setd h, decodeCmd_of_op_setd (hv ▸ h), cmdPos_eq_ofNat, cmdPos_eq_ofNat, cmdDigit_eq_ofNat,
      cmdDigit_eq_ofNat, hpos, hdigit]
  · rw [decodeCmd_of_op_clrc h, decodeCmd_of_op_clrc (hv ▸ h)]

/-! ### The opcode map -/

/-- Under the mask of the map (R63) a word is its opcode, in place. -/
theorem and_mask_eq_iff (w : CmdWord) (op : BitVec 2) :
    w &&& 0x180#9 = op.setWidth 9 <<< 7 ↔ cmdOp w = op := by
  have hmask : ∀ w : CmdWord, w &&& 0x180#9 = (cmdOp w).setWidth 9 <<< 7 := by decide
  have hinj : ∀ a b : BitVec 2, a.setWidth 9 <<< 7 = b.setWidth 9 <<< 7 ↔ a = b := by decide
  rw [hmask, hinj]

/-- The opcode of a command's format (R61); the two function ports have none, and 0 stands there. -/
def opcodeOf : Instr → BitVec 2
  | .nop => 0b00#2
  | .fill _ => 0b01#2
  | .setd _ _ => 0b10#2
  | .clrc => 0b11#2
  | .enc _ => 0b00#2
  | .dec _ => 0b00#2

theorem opcodeOf_decodeCmd (w : CmdWord) : opcodeOf (decodeCmd w) = cmdOp w := by
  rcases op_cases (cmdOp w) with h | h | h | h
  · rw [decodeCmd_of_op_nop h, h, opcodeOf]
  · rw [decodeCmd_of_op_fill h, h, opcodeOf]
  · rw [decodeCmd_of_op_setd h, h, opcodeOf]
  · rw [decodeCmd_of_op_clrc h, h, opcodeOf]

theorem cmdOp_of_decodeCmd_eq {w : CmdWord} {i : Instr} (h : decodeCmd w = i) : cmdOp w = opcodeOf i := by
  rw [← opcodeOf_decodeCmd, h]

/-- Settles O4: a row of the map is selected by its opcode, and the decoder's answer names the opcode. -/
theorem opcodeMapSelectsByMatchAndMask : Obligations.OpcodeMapSelectsByMatchAndMask := by
  intro w
  refine ⟨(and_mask_eq_iff w 0b00#2).trans ⟨decodeCmd_of_op_nop, cmdOp_of_decodeCmd_eq⟩,
    (and_mask_eq_iff w 0b01#2).trans ⟨fun h => ⟨_, decodeCmd_of_op_fill h⟩, fun ⟨_, h⟩ => cmdOp_of_decodeCmd_eq h⟩,
    (and_mask_eq_iff w 0b10#2).trans
      ⟨fun h => ⟨_, _, decodeCmd_of_op_setd h⟩, fun ⟨_, _, h⟩ => cmdOp_of_decodeCmd_eq h⟩,
    (and_mask_eq_iff w 0b11#2).trans ⟨decodeCmd_of_op_clrc, cmdOp_of_decodeCmd_eq⟩,
    Machine.perform_edge_without_command w⟩

/-- Settles O5: eight fixed words, each evaluated. -/
theorem writtenOutWordsDecode : Obligations.WrittenOutWordsDecode :=
  ⟨rfl, rfl, rfl, rfl, rfl, rfl, rfl, rfl⟩

end Sys2Proof
end

section
/-! The assembler's lines (R71): the word of a line whose operands fit, and the lines that are refused. -/
namespace Sys2Proof.Machine

theorem assemble_of_wf {l : AsmLine} (h : l.wf = true) : assemble l = .ok (expand l) := by simp [assemble, h]

theorem assemble_of_not_wf {l : AsmLine} (h : l.wf = false) : assemble l = .error .operandTooWide := by
  simp [assemble, h]

theorem wf_fill_iff (m : Nat) : (AsmLine.fill m).wf = true ↔ m ≤ 3 := by simp [AsmLine.wf, modeFits]

theorem wf_setd_iff (d p : Nat) : (AsmLine.setd d p).wf = true ↔ d ≤ 15 ∧ p ≤ 7 := by
  simp [AsmLine.wf, digitFits, posFits]

theorem expand_fill {m : Nat} (h : m ≤ 3) : expand (.fill m) = [issue (BitVec.ofNat 9 (0x080 + m))] := by
  have hm : (BitVec.ofNat 2 m).toNat = m := by rw [BitVec.toNat_ofNat]; omega
  simp only [expand, command, encode]
  rw [toNat_fillWord, hm]

theorem expand_setd {d p : Nat} (hd : d ≤ 15) (hp : p ≤ 7) :
    expand (.setd d p) = [issue (BitVec.ofNat 9 (0x100 + 16 * p + d))] := by
  have hd : (BitVec.ofNat 4 d).toNat = d := by rw [BitVec.toNat_ofNat]; omega
  have hp : (BitVec.ofNat 3 p).toNat = p := by rw [BitVec.toNat_ofNat]; omega
  simp only [expand, command, encode]
  rw [toNat_setdWord, hd, hp]

/-- Settles O50: a line is assembled exactly when its operands fit, and then expands to its canonical word. -/
theorem assemblerEmitsCanonicalWords : Obligations.AssemblerEmitsCanonicalWords := by
  refine ⟨rfl, rfl, fun m => ⟨fun h => ?_, fun h => ?_⟩, fun d p => ⟨fun hd hp => ?_, fun h => ?_⟩⟩
  · rw [assemble_of_wf ((wf_fill_iff m).mpr h), expand_fill h]
  · exact assemble_of_not_wf (Bool.eq_false_iff.mpr fun hw => absurd ((wf_fill_iff m).mp hw) (by omega))
  · rw [assemble_of_wf ((wf_setd_iff d p).mpr ⟨hd, hp⟩), expand_setd hd hp]
  · exact assemble_of_not_wf (Bool.eq_false_iff.mpr fun hw => absurd ((wf_setd_iff d p).mp hw) (by omega))

end Sys2Proof.Machine
end

section
/-! The block's commands taken together: the laws of R97 and R46, the frame of every instruction, the free values of R82, and
the block being ready in every state (R154). -/
namespace Sys2Proof.Machine

theorem exec_clrc (s : State) : exec .clrc s = .next s :=
  congrArg Host.Outcome.next (s.memWrite_even 0 0x00#8 rfl)

/-- Settles O14: the byte that CLRC writes is an even one, which has no storage. -/
theorem clrcChangesNothing : Obligations.ClrcChangesNothing :=
  ⟨rfl, fun s => ⟨rfl, exec_clrc s⟩⟩

/-! ### Stores to one slot and to two -/

theorem State.setSlot_setSlot_self (s : State) (p : Pos) (v w : Byte) :
    (s.setSlot p v).setSlot p w = s.setSlot p w := by cases p <;> rfl

theorem State.setSlot_comm (s : State) {p q : Pos} (h : p ≠ q) (v w : Byte) :
    (s.setSlot p v).setSlot q w = (s.setSlot q w).setSlot p v := by
  cases p <;> cases q <;> simp_all [State.setSlot]

/-- A position 1..5 enables a slot. -/
theorem exists_writeDecoder {pos : PosBits} (h1 : 1 ≤ pos.toNat) (h5 : pos.toNat ≤ 5) :
    ∃ p, writeDecoder pos = some p := by
  refine Option.ne_none_iff_exists'.mp fun hnone => ?_
  have := (writeDecoder_eq_none pos).mp hnone
  omega

/-- No slot is enabled by two positions. -/
theorem writeDecoder_injective {pos pos' : PosBits} {p : Pos} (h : writeDecoder pos = some p)
    (h' : writeDecoder pos' = some p) : pos = pos' :=
  BitVec.eq_of_toNat_eq
    (((writeDecoder_eq_some pos p).mp h).trans ((writeDecoder_eq_some pos' p).mp h').symm)

theorem State.storeDigit_comm (T : SegTable) (s : State) {pos pos' : PosBits} {d d' : DigitBits} (hne : pos ≠ pos')
    (hd : d.toNat < 10) (hd' : d'.toNat < 10) :
    (s.storeDigit T pos d).storeDigit T pos' d' = (s.storeDigit T pos' d').storeDigit T pos d := by
  cases hp : writeDecoder pos with
  | none => rw [State.storeDigit_of_none hp, State.storeDigit_of_none hp]
  | some p =>
    cases hp' : writeDecoder pos' with
    | none => rw [State.storeDigit_of_none hp', State.storeDigit_of_none hp']
    | some p' =>
      have hpp : p ≠ p' := by
        rintro rfl
        exact hne (writeDecoder_injective hp hp')
      simp only [State.storeDigit_of_lt hp _ hd, State.storeDigit_of_lt hp' _ hd']
      exact State.setSlot_comm s hpp _ _

theorem State.storeDigit_storeDigit (T : SegTable) (s : State) (pos : PosBits) {d d' : DigitBits}
    (hd : d.toNat < 10) (hd' : d'.toNat < 10) :
    (s.storeDigit T pos d).storeDigit T pos d' = s.storeDigit T pos d' := by
  cases hp : writeDecoder pos with
  | none => rw [State.storeDigit_of_none hp, State.storeDigit_of_none hp, State.storeDigit_of_none hp]
  | some p =>
    rw [State.storeDigit_of_lt hp _ hd, State.storeDigit_of_lt hp _ hd', State.storeDigit_of_lt hp _ hd']
    exact State.setSlot_setSlot_self s p _ _

/-- A valid FILL leaves the mode's pattern in every slot, whatever was there. -/
theorem State.sameSlots_fill (s s' : State) {m : ModeBits} (h : m.toNat < 2) : SameSlots (s.fill m) (s'.fill m) := by
  intro p
  cases hm : fillPattern m with
  | none =>
    have := (fillPattern_eq_none m).mp hm
    omega
  | some v => rw [State.slot_fill, State.slot_fill, hm, Option.getD_some, Option.getD_some]

/-- What SETD stores for a digit 0..9 decodes to the digit, read at the byte of the position. -/
theorem State.decPattern_fb_storeDigit (T : SegTable) (s : State) {pos : PosBits} {d : DigitBits} {i : Fin 10}
    (h1 : 1 ≤ pos.toNat) (h5 : pos.toNat ≤ 5) (hd : d.toNat < 10) (hi : i.val = 11 - 2 * pos.toNat) :
    decPattern T ((s.storeDigit T pos d).fb i) = .digit d := by
  obtain ⟨p, hp⟩ := exists_writeDecoder h1 h5
  rw [State.fb_of_eq_posIndex _ (hi.trans (posIndex_of_writeDecoder hp).symm), State.slot_storeDigit_self hp,
    decPattern_encPattern T _ hd]

/-- Settles O15: one law of the stores for each of L1 to L5. -/
theorem commandLaws : Obligations.CommandLaws := by
  refine ⟨fun s pos pos' d d' hne hd hd' => ?commute, fun s pos d d' hd hd' => ?laterWins,
    fun s s' m hm => ?fillForgets,
    fun s => ⟨exec_nop s, exec_clrc s, fun m hm => ?fillInvalid, fun pos d hpos => ?setdInvalid⟩,
    fun s pos d i h1 h5 hd hi => ?decodes⟩
  case commute =>
    exact ⟨_, _, _, exec_setd pos d s, exec_setd pos' d' _, exec_setd pos' d' s,
      (exec_setd pos d _).trans (congrArg _ (State.storeDigit_comm _ s hne hd hd').symm)⟩
  case laterWins =>
    exact ⟨_, _, exec_setd pos d s, exec_setd pos d' _,
      (exec_setd pos d' s).trans (congrArg _ (State.storeDigit_storeDigit _ s pos hd hd').symm)⟩
  case fillForgets => exact ⟨_, _, exec_fill m s, exec_fill m s', State.sameSlots_fill s s' hm⟩
  case fillInvalid => rw [exec_fill, State.fill_of_none ((fillPattern_eq_none m).mpr hm)]
  case setdInvalid => rw [exec_setd, State.storeDigit_of_none ((writeDecoder_eq_none pos).mpr hpos)]
  case decodes => exact ⟨_, exec_setd pos d s, State.decPattern_fb_storeDigit _ s h1 h5 hd hi⟩

/-- Settles O16: a store repeated is the store. -/
theorem writesAreIdempotent : Obligations.WritesAreIdempotent := by
  rintro s i (⟨m, rfl⟩ | ⟨pos, d, rfl, hd⟩)
  · exact ⟨_, exec_fill m s, by rw [exec_fill, State.fill_fill]⟩
  · exact ⟨_, exec_setd pos d s, by rw [exec_setd, State.storeDigit_storeDigit _ s pos hd hd]⟩

/-! ### Frames -/

theorem SameOutside.refl (s : State) : SameOutside s s := ⟨rfl, rfl, rfl, rfl, rfl, rfl, rfl, rfl⟩

/-- No command of the command port touches the host's fields or the pins. -/
theorem sameOutside_of_command {i : Instr} {s t : State} (hport : (encode i).1 = .cmd) (h : exec i s = .next t) :
    SameOutside s t := by
  cases i with
  | nop => cases h; exact SameOutside.refl s
  | fill m => cases h; exact s.sameOutside_fill m
  | setd pos d => cases h; exact s.sameOutside_storeDigit _ pos d
  | clrc => cases h; exact SameOutside.refl s
  | enc d => cases hport
  | dec b => cases hport

/-- Only FILL and SETD write slots. -/
theorem sameSlots_of_exec {i : Instr} {s t : State} (hi : i = .nop ∨ i = .clrc ∨ (∃ d, i = .enc d) ∨ ∃ b, i = .dec b)
    (h : exec i s = .next t) : SameSlots s t := by
  rcases hi with rfl | rfl | ⟨d, rfl⟩ | ⟨b, rfl⟩ <;> cases h
  · exact fun _ => rfl
  · exact fun _ => rfl
  · exact fun p => (s.slot_driveEncoder d p).symm
  · exact fun p => (s.slot_driveDecoder b p).symm

/-- SETD writes no byte but that of its position. -/
theorem State.fb_storeDigit_of_ne (T : SegTable) (s : State) {pos : PosBits} (d : DigitBits) {a : Fin 10}
    (h : writeDecoder pos = none ∨ a.val ≠ 11 - 2 * pos.toNat) : (s.storeDigit T pos d).fb a = s.fb a := by
  cases hp : writeDecoder pos with
  | none => rw [State.storeDigit_of_none hp]
  | some p =>
    have ha : a.val ≠ posIndex p := by
      rw [posIndex_of_writeDecoder hp]
      exact h.resolve_left (by simp [hp])
    exact State.fb_congr_of_ne_posIndex
      (fun q hq => State.slot_storeDigit_of_ne (fun e => hq (Option.some.inj (e.symm.trans hp))) s d) ha

theorem encDigit_of_exec {i : Instr} {s t : State} (hi : ∀ d, i ≠ .enc d) (h : exec i s = .next t) :
    t.encDigit = s.encDigit := by
  cases i with
  | enc d => exact absurd rfl (hi d)
  | dec b => cases h; exact s.driveDecoder_encDigit b
  | nop | fill | setd | clrc =>
    obtain ⟨-, -, henc, -⟩ := sameOutside_of_command rfl h
    exact henc.symm

theorem decByte_of_exec {i : Instr} {s t : State} (hi : ∀ b, i ≠ .dec b) (h : exec i s = .next t) :
    t.decByte = s.decByte := by
  cases i with
  | dec b => exact absurd rfl (hi b)
  | enc d => cases h; exact s.driveEncoder_decByte d
  | nop | fill | setd | clrc =>
    obtain ⟨-, -, -, hdec, -⟩ := sameOutside_of_command rfl h
    exact hdec.symm

/-- Settles O25: the slots of the four instructions that write none, the other bytes of SETD, the even bytes of FILL, and the
fields outside the block. -/
theorem instructionFrames : Obligations.InstructionFrames := by
  intro i s t h
  refine ⟨fun hi => ?slots, fun pos d hi a ha => ?setd, fun m _ a ha => ?fill, exec_outside h,
    fun hi => encDigit_of_exec hi h, fun hi => decByte_of_exec hi h⟩
  case slots =>
    have hs := sameSlots_of_exec hi h
    exact ⟨hs, fun a => (State.fb_congr hs a).symm⟩
  case setd =>
    subst hi
    cases h
    exact s.fb_storeDigit_of_ne _ d ha
  case fill => rw [t.fb_even a ha, s.fb_even a ha]

/-! ### Free values, and readiness -/

/-- Settles O19: `storeDigit_of_not_lt` for SETD, and the encoder's counter and output. -/
theorem unencodableDigitsDrawFreeValues : Obligations.UnencodableDigitsDrawFreeValues := by
  intro s d hd
  have hd : ¬ d.toNat < 10 := Nat.not_lt.mpr hd
  refine ⟨fun pos p hp => ⟨_, exec_setd pos d s, ?slot, ?draws⟩, s.driveEncoder d, exec_enc d s,
    encPattern_of_not_lt _ _ hd, if_neg hd⟩
  case slot => rw [State.slot_storeDigit_self hp, encPattern_of_not_lt _ _ hd]
  case draws => rw [State.storeDigit_of_not_lt hp s hd]

/-- Every instruction answers a next state. -/
theorem exec_ready (i : Instr) (s : State) : ∃ t, exec i s = .next t := by
  cases i <;> exact ⟨_, rfl⟩

/-- An edge is the reset or an instruction. -/
theorem perform_edge_cases (rst valid : Bool) (w : CmdWord) (s : State) :
    perform (.edge rst valid w) s = .next s.hardwareReset ∨
      ∃ i, perform (.edge rst valid w) s = exec i s := by
  cases rst with
  | true => exact .inl rfl
  | false =>
    cases valid with
    | true => exact .inr ⟨decodeCmd w, rfl⟩
    | false => exact .inr ⟨.nop, rfl⟩

/-- Every instruction answers, and leaves the queue as it is. -/
theorem exec_keeps_todo (i : Instr) (s : State) : ∃ t, exec i s = .next t ∧ t.todo = s.todo := by
  obtain ⟨t, ht⟩ := exec_ready i s
  obtain ⟨-, -, htodo, -⟩ := exec_outside ht
  exact ⟨t, ht, htodo⟩

/-- Settles O26: a step that presents something to the block is the reset or an instruction, and each answers. -/
theorem blockIsAlwaysReady : Obligations.BlockIsAlwaysReady := by
  refine ⟨exec_ready, fun s rest rst valid w h => ?edge, fun s rest d h => ?enc, fun s rest b h => ?dec⟩
  case edge =>
    rw [step_cons h]
    rcases perform_edge_cases rst valid w { s.tick with todo := rest } with e | ⟨i, e⟩ <;> rw [e]
    · exact ⟨_, rfl, rfl⟩
    · exact exec_keeps_todo i _
  case enc =>
    rw [step_cons h]
    exact exec_keeps_todo (.enc d) _
  case dec =>
    rw [step_cons h]
    exact exec_keeps_todo (.dec b) _

end Sys2Proof.Machine
end

section
/-! The step at the ports (R150, R152, R154): the instruction presented, no command, and the reset. -/
namespace Sys2Proof.Machine

/-- A table word that decodes has a port, at which it is presented and decoded. -/
theorem exists_port_of_decodeTableWord {nbits w : Nat} {i : Instr} (h : decodeTableWord nbits w = some i) :
    ∃ port, wordAction nbits w = some (portAction port w) ∧ decode port w = .ok i := by
  unfold decodeTableWord at h
  unfold wordAction
  cases hport : portOfBits nbits with
  | none => simp [hport] at h
  | some port =>
    rw [hport] at h
    by_cases hw : w < 2 ^ portWidth port
    · refine ⟨port, if_pos hw, ?_⟩
      cases hd : decode port w with
      | ok j =>
        simp only [hd] at h
        rw [Option.some.inj h]
      | error e => simp [hd] at h
    · simp [decode_of_too_wide (Nat.not_lt.mp hw)] at h

/-- Presenting a number at a port runs what it decodes to there. -/
theorem perform_portAction {port : Port} {w : Nat} {i : Instr} (h : decode port w = .ok i) (s : State) :
    perform (portAction port w) s = exec i s := by
  unfold decode at h
  split at h
  next => cases port <;> cases h <;> rfl
  next => cases h

/-- Settles O6: an action of a port is performed as its instruction; a table word is the action of its port. -/
theorem stepRunsPresentedInstruction : Obligations.StepRunsPresentedInstruction := by
  refine ⟨fun s rest w h => step_cons h, fun s rest d h => step_cons h, fun s rest b h => step_cons h,
    fun s nbits w i h => ?_⟩
  obtain ⟨port, hact, hdec⟩ := exists_port_of_decodeTableWord h
  have hfetch : s.withFetchWord nbits w = s.push [portAction port w] := by
    simp only [State.withFetchWord, presentWord, hact]
  rw [hfetch, step_cons (s.push_todo _), perform_portAction hdec]
  rfl

/-- Settles O7: both steps are NOP, after the counter and the queue have moved. -/
theorem stepWithoutCommandChangesNothing : Obligations.StepWithoutCommandChangesNothing :=
  ⟨fun s rest _ h =>
      ⟨{ s.tick with todo := rest }, step_cons h, fun _ => rfl, SameOutside.refl { s with todo := rest }⟩,
    fun s h => ⟨s.tick, step_nil h, fun p => (s.slot_tick p).symm, SameOutside.refl s⟩⟩

/-- Settles O8: the values of the reset state's fields. -/
theorem resetStateIsBlank : Obligations.ResetStateIsBlank :=
  ⟨State.slot_reset, rfl, rfl, rfl⟩

theorem State.fb_hardwareReset (s : State) (i : Fin 10) : s.hardwareReset.fb i = 0x00#8 := by
  unfold State.fb
  split
  · exact s.slot_hardwareReset _
  · rfl

/-- Settles O9: with `rst` = 1 the step is `State.hardwareReset`, whose slots are `patNone`. -/
theorem hardwareResetWinsFromAnyState : Obligations.HardwareResetWinsFromAnyState := by
  intro s rest valid w h
  refine ⟨State.hardwareReset { s.tick with todo := rest }, step_cons h, State.slot_hardwareReset _,
    State.fb_hardwareReset _, rfl, rfl, ⟨_, exec_fill 0#2 s, fun p => ?_⟩, SameOutside.refl _⟩
  rw [State.slot_hardwareReset, State.slot_fill, fillPattern_none]
  rfl

end Sys2Proof.Machine
end

section
/-! Bytes and segments: the bytes that decode (R83), the segments a byte lights (R42, R86), and the memory image (R53). -/
namespace Sys2Proof

/-- An extended pattern lights the segments of its bits. -/
theorem segmentLit_zext8 (p : Pattern) (g : Segment) : segmentLit (zext8 p) g = p.getLsbD (segmentBit g) := by
  have hg : segmentBit g < 8 := by cases g <;> decide
  simp [segmentLit, zext8, hg]

end Sys2Proof

namespace Sys2Proof.Machine

/-- Settles O22: the two fill patterns segment by segment, and the segments of an extended pattern. -/
theorem fillPatternsLightAllOrNoSegments : Obligations.FillPatternsLightAllOrNoSegments := by
  refine ⟨fun g => ?_, rfl, rfl, fun p => ?_⟩
  · cases g <;> decide
  · simp only [List.map_cons, List.map_nil, segmentLit_zext8, segmentBit]

/-- A byte decodes exactly when it is an extended table entry. -/
theorem decErr_decPattern_eq_false (T : SegTable) (b : Byte) :
    decErr (decPattern T b) = false ↔ ∃ d, zext8 (T.pat d) = b := by
  cases h : decDigit T b with
  | some d =>
    have hd := (decDigit_eq_some T b d).mp h
    simp only [decPattern_of_some h, decErr, true_iff]
    exact ⟨d, hd⟩
  | none =>
    have hd := (decDigit_eq_none T b).mp h
    simp [decPattern_of_none h, decErr, hd]

/-- Settles O20: the bytes that decode are the image of the ten digits under an injective map. -/
theorem tenBytesDecode : Obligations.TenBytesDecode := by
  intro T
  have hinj : Function.Injective fun d : Fin 10 => (zext8 (T.pat d)).toFin := fun a b h =>
    T.inj (zext8_injective (BitVec.toFin_inj.mp h))
  have himage : (Finset.univ.filter fun k : Fin 256 => decErr (decPattern T (BitVec.ofNat 8 k.val)) = false) =
      Finset.univ.image fun d : Fin 10 => (zext8 (T.pat d)).toFin := by
    ext k
    simp only [Finset.mem_filter_univ, Finset.mem_image, Finset.mem_univ, true_and, decErr_decPattern_eq_false]
    exact exists_congr fun d => by rw [← BitVec.toFin_inj, BitVec.toFin_ofNat, Fin.ofNat_eq_cast, Fin.cast_val_eq_self]
  rw [himage, Finset.card_image_of_injective _ hinj]
  rfl

/-! ### The memory image -/

theorem Memory.read_cons (c : Host.Cell) (m : Memory) (i : Nat) :
    Memory.read (c :: m) i = if c.1 = i then c.2 else Memory.read m i := by
  unfold Memory.read
  by_cases h : c.1 = i <;> simp [h]

theorem Memory.read_of_not_listed {m : Memory} {i : Nat} (h : ∀ c ∈ m, c.1 ≠ i) :
    Memory.read m i = Memory.unlisted := by
  have hfind : (m.find? fun c => decide (c.1 = i)) = none := by simpa using h
  simp [Memory.read, hfind]

/-- Dropping the cells that hold what an unlisted index reads as changes no read, when no index is listed twice. -/
theorem Memory.read_filter {m : Memory} (h : m.Pairwise fun a b => a.1 ≠ b.1) (i : Nat) :
    Memory.read (m.filter fun c => decide (c.2 ≠ Memory.unlisted)) i = Memory.read m i := by
  induction m with
  | nil => rfl
  | cons c m ih =>
    obtain ⟨hc, hm⟩ := List.pairwise_cons.mp h
    by_cases hz : c.2 = Memory.unlisted
    · rw [List.filter_cons_of_neg (by simp [hz]), ih hm, Memory.read_cons]
      split
      next hi =>
        rw [hz]
        exact Memory.read_of_not_listed fun b hb e => hc b hb (hi.trans e.symm)
      next => rfl
    · rw [List.filter_cons_of_pos (by simp [hz]), Memory.read_cons, Memory.read_cons, ih hm]

/-- The canonical image reads as the frame buffer. -/
theorem State.read_memory (s : State) (i : Fin 10) : s.memory.read i.val = s.fb i := by
  rw [State.memory, Memory.read_filter (by simp)]
  fin_cases i <;> rfl

/-- Settles O24: the two views byte by byte, and the canonical image. -/
theorem registerAndMemoryViewsAgree : Obligations.RegisterAndMemoryViewsAgree :=
  fun s => ⟨fun _ _ hi => s.fb_of_eq_posIndex hi, s.fb_even, s.memRead_all, s.memory_wf, s.read_memory⟩

end Sys2Proof.Machine
end

section
/-! The loop of `showDecimal` (R109) as one call for each decimal place of the value that is drawn. -/
namespace Sys2Proof.Machine

/-- The call that draws the digit at decimal place `i` of the value. -/
def digitCall (v i : Nat) : Action := .call (.setDigit (v / 10 ^ i % 10 : Nat) (i + 1 : Nat))

/-- The decimal places that `showDecimal` draws: the ones place of a value below 10, none of 10 itself, else all. -/
def drawnPlaces (v : Nat) : List Nat :=
  if v < 10 then [0] else if v = 10 then [] else List.range (digitCount v)

theorem digitCalls_eq_map (v : Nat) : digitCalls v = (drawnPlaces v).map (digitCall v) := by
  by_cases hlt : v < 10
  · simp [digitCalls, drawnPlaces, digitCall, hlt, Nat.mod_eq_of_lt hlt]
  · by_cases hten : v = 10
    · simp [digitCalls, drawnPlaces, hten]
    · rw [digitCalls_of_gt (by omega), drawnPlaces, if_neg hlt, if_neg hten]
      rfl

/-- But for the value 10, a position's place is drawn when the value reaches it; the ones place is drawn always. -/
theorem mem_drawnPlaces {v : Nat} (h : v ≠ 10) (p : Pos) :
    posNumber p - 1 ∈ drawnPlaces v ↔ posNumber p = 1 ∨ 10 ^ (posNumber p - 1) ≤ v := by
  have hpos : 1 ≤ posNumber p := by cases p <;> decide
  unfold drawnPlaces
  split
  next hlt =>
    have hpow : posNumber p ≠ 1 → 10 ^ 1 ≤ 10 ^ (posNumber p - 1) := fun hne =>
      Nat.pow_le_pow_right (by decide) (by omega)
    rw [List.mem_singleton]
    omega
  next hge =>
    rw [List.mem_range, lt_digitCount_iff]
    refine ⟨.inr, fun hor => hor.elim (fun hone => ?_) id⟩
    rw [hone]
    omega

end Sys2Proof.Machine
end

section
/-!
What one step of the machine can do, said once: `Performs s a r` lists for every action `a` all the outcomes `r` it can have
in the state `s`. The invariants (R96), the stops (R145, R159) and the transitions of LSV and DS (R25, R111) are read off it.
-/
namespace Sys2Proof.Machine

/-- The state in which the caller of a transport call goes on. -/
def State.afterCall (s : State) (c : TransportCall) (later : List TransportAnswer) (n : Nat) : State :=
  { s with calls := s.calls ++ [c], answers := later, draws := n }

/-- The actions that make a transport call (R107, R108, R109, R112, R72). -/
def CallsTransport (a : Action) : Prop :=
  a = .frame ∨ a = .showWrite ∨ a = .call .powerOff ∨ a = .call .readDecimal ∨
    (∃ m, a = .powerOnWrite m) ∨ ∃ stage m, a = .setup stage m

/-- The calls with a negative argument that has no meaning (R110, U4). -/
def NegativeArgument (c : HostCall) : Prop :=
  (∃ v, c = .showDecimal v ∧ v < 0) ∨ (∃ v, c = .digitCount v ∧ v < 0) ∨
    ∃ v i, c = .digitAt v i ∧ (v < 0 ∨ i < 0)

/-- All that the performing of an action can do. -/
inductive Performs (s : State) : Action → Result → Prop where
  | hardwareReset (valid : Bool) (w : CmdWord) : Performs s (.edge true valid w) (.next s.hardwareReset)
  | noCommand (w : CmdWord) : Performs s (.edge false false w) (.next s)
  | command {w : CmdWord} {t : State} (h : exec (decodeCmd w) s = .next t) :
      Performs s (.edge false true w) (.next t)
  | encDigit (d : DigitBits) : Performs s (.encDigit d) (.next (s.driveEncoder d))
  | decByte (b : Byte) : Performs s (.decByte b) (.next (s.driveDecoder b))
  | clearLsv : Performs s .clearLsv (.next { s with lsv := false })
  | digitCount (v : Nat) :
      Performs s (.call (.digitCount v)) (.next { s with result := .count (Machine.digitCount v) })
  | digitAt {v i d : Nat} (h : Machine.digitAt v i = some d) :
      Performs s (.call (.digitAt v i)) (.next { s with result := .digit d })
  | digitAtInvalid {v i : Nat} (h : Machine.digitAt v i = none) :
      Performs s (.call (.digitAt v i)) (.next { s with result := .invalid })
  | setDigit {d p : Int} (hp : 1 ≤ p ∧ p ≤ 5) (hd : 0 ≤ d ∧ d ≤ 15) :
      Performs s (.call (.setDigit d p))
        (.next ({ s with result := .nothing }.push [issue (setdWord (BitVec.ofInt 3 p) (BitVec.ofInt 4 d))]))
  | setDigitIgnored {d p : Int} (hp : ¬ (1 ≤ p ∧ p ≤ 5)) :
      Performs s (.call (.setDigit d p)) (.next { s with result := .nothing })
  | reset (m : Int) :
      Performs s (.call (.reset m)) (.next ({ s with result := .nothing }.push (fillActions m ++ [Action.clearLsv])))
  | powerOn (m : Int) : Performs s (.call (.powerOn m)) (.next (s.push [.setup .oscOn m]))
  | showDecimal (v : Nat) :
      Performs s (.call (.showDecimal v))
        (.next (s.push ([.call (.powerOn 0), .call (.reset 0), issue 0x180#9] ++ digitCalls v ++ [.showWrite])))
  | frame (st : Int) (later : List TransportAnswer) (n : Nat) :
      Performs s .frame (.next { s.afterCall s.frameCall later n with result := .status st })
  | showWrite (st : Int) (later : List TransportAnswer) (n : Nat) :
      Performs s .showWrite (.next { s.afterCall s.frameCall later (n + 1) with
        result := .status st, ds := displayAfterShow st n, lsv := Config.freeBit n })
  | powerOnWrite (m st : Int) (later : List TransportAnswer) (n : Nat) :
      Performs s (.powerOnWrite m) (powerOnReturns m st (s.afterCall s.frameCall later n))
  | setupFails (stage : SetupStage) (m : Int) {st : Int} (hst : st < 0) (later : List TransportAnswer) (n : Nat) :
      Performs s (.setup stage m)
        (powerOnReturns m st (s.afterCall (busCommandCall (setupCommand stage)) later n))
  | setupSucceeds (stage : SetupStage) (m : Int) (later : List TransportAnswer) (n : Nat) :
      Performs s (.setup stage m)
        (.next ((s.afterCall (busCommandCall (setupCommand stage)) later n).push (afterSetup stage m)))
  | powerOff (st : Int) (later : List TransportAnswer) (n : Nat) :
      Performs s (.call .powerOff) (.next { s.afterCall (busCommandCall .oscOff) later n with
        result := .status st, ds := displayAfterPowerOff st s.ds })
  | readFails {st : Int} (hst : st < 0) (later : List TransportAnswer) (n : Nat) :
      Performs s (.call .readDecimal) (.next { s.afterCall readCall later n with result := .transportFailure st })
  | readSucceeds (b : Byte) (later : List TransportAnswer) (n : Nat) :
      Performs s (.call .readDecimal) (.next { (s.afterCall readCall later n).driveDecoder b with
        result := readResult (decPattern Config.segTable b) })
  | hangs {a : Action} (h : CallsTransport a) : Performs s a (.fault .transportHang)
  | negativeArgument {c : HostCall} (h : NegativeArgument c) : Performs s (.call c) (.refused .negativeArgument)
  | digitHasNoEncoding {d p : Int} (hp : 1 ≤ p ∧ p ≤ 5) (hd : d < 0 ∨ 15 < d) :
      Performs s (.call (.setDigit d p)) (.refused .digitHasNoEncoding)

/-- A transport call hangs, or its caller goes on. -/
theorem Performs.of_transact {s : State} {a : Action} {c : TransportCall} {k : Int → Byte → State → Result}
    (ha : CallsTransport a) (hk : ∀ st b later n, Performs s a (k st b (s.afterCall c later n))) :
    Performs s a (s.transact c k) := by
  rcases s.transact_cases c k with e | ⟨st, b, later, n, e⟩ <;> rw [e]
  · exact .hangs ha
  · exact hk st b later n

theorem performs_setup (stage : SetupStage) (m : Int) (s : State) :
    Performs s (.setup stage m) (setupStep stage m s) := by
  refine .of_transact (by simp [CallsTransport]) fun st _ later n => ?_
  split
  next hst => exact .setupFails stage m (of_decide_eq_true hst) later n
  next => exact .setupSucceeds stage m later n

theorem performs_digitAt (v i : Int) (s : State) : Performs s (.call (.digitAt v i)) (callDigitAt v i s) := by
  unfold callDigitAt
  split
  next h => exact .negativeArgument (.inr (.inr ⟨v, i, rfl, h⟩))
  next h =>
    obtain ⟨v, rfl⟩ := Int.eq_ofNat_of_zero_le (a := v) (by omega)
    obtain ⟨i, rfl⟩ := Int.eq_ofNat_of_zero_le (a := i) (by omega)
    split
    next d hd => exact .digitAt hd
    next hd => exact .digitAtInvalid hd

theorem performs_setDigit (d p : Int) (s : State) : Performs s (.call (.setDigit d p)) (callSetDigit d p s) := by
  unfold callSetDigit
  split
  next hp =>
    split
    next hd => exact .setDigit hp hd
    next hd => exact .digitHasNoEncoding hp (by omega)
  next hp => exact .setDigitIgnored hp

theorem performs_call (c : HostCall) (s : State) : Performs s (.call c) (hostCall c s) := by
  cases c with
  | digitCount v =>
    simp only [hostCall, callDigitCount]
    split
    next h => exact .negativeArgument (.inr (.inl ⟨v, rfl, h⟩))
    next h =>
      obtain ⟨n, rfl⟩ := Int.eq_ofNat_of_zero_le (Int.not_lt.mp h)
      exact .digitCount n
  | digitAt v i => exact performs_digitAt v i s
  | setDigit d p => exact performs_setDigit d p s
  | reset m => exact .reset m
  | powerOn m => exact .powerOn m
  | powerOff => exact .of_transact (by simp [CallsTransport]) fun st _ later n => .powerOff st later n
  | showDecimal v =>
    simp only [hostCall, callShowDecimal]
    split
    next h => exact .negativeArgument (.inl ⟨v, rfl, h⟩)
    next h =>
      obtain ⟨n, rfl⟩ := Int.eq_ofNat_of_zero_le (Int.not_lt.mp h)
      exact .showDecimal n
  | readDecimal =>
    refine .of_transact (by simp [CallsTransport]) fun st b later n => ?_
    split
    next hst => exact .readFails (of_decide_eq_true hst) later n
    next => exact .readSucceeds b later n

theorem performs_edge (rst valid : Bool) (w : CmdWord) (s : State) :
    Performs s (.edge rst valid w) (clockEdge rst valid w s) := by
  cases rst with
  | true => exact .hardwareReset valid w
  | false =>
    cases valid with
    | false => exact .noCommand w
    | true =>
      obtain ⟨t, ht⟩ := exec_ready (decodeCmd w) s
      have hedge : clockEdge false true w s = .next t := ht
      rw [hedge]
      exact .command ht

/-- `Performs` lists every outcome of `perform`. -/
theorem performs_perform (a : Action) (s : State) : Performs s a (perform a s) := by
  cases a with
  | edge rst valid w => exact performs_edge rst valid w s
  | encDigit d => exact .encDigit d
  | decByte b => exact .decByte b
  | frame => exact .of_transact (by simp [CallsTransport]) fun st _ later n => .frame st later n
  | call c => exact performs_call c s
  | setup stage m => exact performs_setup stage m s
  | powerOnWrite m => exact .of_transact (by simp [CallsTransport]) fun st _ later n => .powerOnWrite m st later n
  | showWrite => exact .of_transact (by simp [CallsTransport]) fun st _ later n => .showWrite st later n
  | clearLsv => exact .clearLsv

/-- The outcome of a step with an action pending. -/
theorem performs_of_step {s : State} {a : Action} {rest : List Action} {r : Result} (h : s.todo = a :: rest)
    (hr : step s = r) : Performs { s.tick with todo := rest } a r := by
  rw [← hr, step_cons h]
  exact performs_perform a _

/-! ### Slots -/

/-- Only an edge writes slots. -/
theorem Performs.sameSlots {s t : State} {a : Action} (h : Performs s a (.next t))
    (ha : ∀ rst valid w, a ≠ .edge rst valid w) : SameSlots s t := by
  cases h with
  | hardwareReset valid w => exact absurd rfl (ha true valid w)
  | noCommand w => exact absurd rfl (ha false false w)
  | command _ => exact absurd rfl (ha _ _ _)
  | _ => exact fun _ => rfl

/-- An edge makes no transport call and takes no answer. -/
theorem Performs.edge_transport {s t : State} {rst valid : Bool} {w : CmdWord}
    (h : Performs s (.edge rst valid w) (.next t)) : t.calls = s.calls ∧ t.answers = s.answers := by
  cases h with
  | hardwareReset => exact ⟨rfl, rfl⟩
  | noCommand => exact ⟨rfl, rfl⟩
  | command h =>
    obtain ⟨-, -, -, hanswers, hcalls, -⟩ := exec_outside h
    exact ⟨hcalls, hanswers⟩

/-- Settles O31: the two halves of `Performs`, the actions that are no edges and the edges. -/
theorem onlyEdgesWriteTheFrameBuffer : Obligations.OnlyEdgesWriteTheFrameBuffer := by
  intro s a rest t h hstep
  have hp := performs_of_step h hstep
  refine ⟨fun ha => hp.sameSlots ha, ?_⟩
  rintro ⟨rst, valid, w, rfl⟩
  exact hp.edge_transport

/-- A property of bytes that the fill patterns have, and whatever the instruction stores for a digit, stays with the slots. -/
theorem exec_keeps_slots {P : Byte → Prop} {i : Instr} {s t : State} (hnone : P patNone) (hall : P patAll)
    (hsetd : ∀ pos d p free, i = .setd pos d → writeDecoder pos = some p →
      P (zext8 (encPattern Config.segTable d free)))
    (hs : ∀ p, P (s.slot p)) (h : exec i s = .next t) (p : Pos) : P (t.slot p) := by
  cases i with
  | fill m =>
    cases h
    rw [State.slot_fill]
    cases hm : fillPattern m with
    | none => exact hs p
    | some v => rcases fillPattern_cases hm with rfl | rfl <;> assumption
  | setd pos d =>
    cases h
    by_cases hp : writeDecoder pos = some p
    · rw [State.slot_storeDigit_self hp]
      exact hsetd pos d p _ rfl hp
    · rw [State.slot_storeDigit_of_ne hp]
      exact hs p
  | nop | clrc | enc | dec => exact sameSlots_of_exec (by simp) h p ▸ hs p

/-- The same through every step, where only a SETD that is presented stores a digit. -/
theorem step_keeps_slots {P : Byte → Prop} {s t : State} (hnone : P patNone) (hall : P patAll)
    (hsetd : ∀ w rest pos d p free, s.todo = .edge false true w :: rest → decodeCmd w = .setd pos d →
      writeDecoder pos = some p → P (zext8 (encPattern Config.segTable d free)))
    (hs : ∀ p, P (s.slot p)) (h : step s = .next t) (p : Pos) : P (t.slot p) := by
  cases htodo : s.todo with
  | nil =>
    rw [step_nil htodo] at h
    cases h
    rw [State.slot_tick]
    exact hs p
  | cons a rest =>
    have hp := performs_of_step htodo h
    by_cases ha : ∀ rst valid w, a ≠ .edge rst valid w
    · exact hp.sameSlots ha p ▸ hs p
    · push Not at ha
      obtain ⟨rst, valid, w, rfl⟩ := ha
      cases hp with
      | hardwareReset =>
        rw [State.slot_hardwareReset]
        exact hnone
      | noCommand => exact hs p
      | command hw =>
        exact exec_keeps_slots (s := { s.tick with todo := rest }) hnone hall
          (fun pos d p free => hsetd w rest pos d p free htodo) hs hw p

/-- Settles O27: bit 7 is 0 in the fill patterns and in every extended pattern. -/
theorem bitSevenStaysClear : Obligations.BitSevenStaysClear :=
  fun _ _ hs h => step_keeps_slots (P := fun b => b.getLsbD 7 = false) rfl rfl
    (fun _ _ _ _ _ _ _ _ _ => getLsbD_seven_zext8 _) hs h

/-- Settles O28: the reset state's slots are 0x00. -/
theorem bitSevenClearAtReset : Obligations.BitSevenClearAtReset := by
  intro p
  rw [State.slot_reset]
  rfl

/-! ### The twelve values -/

theorem KnownQueue.push {s : State} {as : List Action} (hs : KnownQueue s) (has : ∀ a ∈ as, KnownAction a) :
    KnownQueue (s.push as) := by
  intro a ha
  rcases List.mem_append.mp ha with h | h
  · exact has a h
  · exact hs a h

theorem knownAction_issue {w : CmdWord} (h : KnownCommand (decodeCmd w)) : KnownAction (issue w) := fun _ => h

theorem knownAction_fillActions (m : Int) : ∀ a ∈ fillActions m, KnownAction a := by
  unfold fillActions
  split
  · intro a ha
    rw [List.mem_singleton.mp ha]
    exact knownAction_issue (by rw [decodeCmd_fillWord]; trivial)
  · simp

theorem knownAction_afterSetup (stage : SetupStage) (m : Int) : ∀ a ∈ afterSetup stage m, KnownAction a := by
  cases stage with
  | oscOn | blinkOff => simp [afterSetup, KnownAction]
  | brightness =>
    intro a ha
    rcases List.mem_append.mp ha with h | h
    · exact knownAction_fillActions m a h
    · rw [List.mem_singleton.mp h]
      trivial

/-- The SETD that host `setDigit` issues for a digit 0..9 is a known command. -/
theorem knownAction_issue_setd {pos : PosBits} {d : Int} (h0 : 0 ≤ d) (h9 : d ≤ 9) :
    KnownAction (issue (setdWord pos (BitVec.ofInt 4 d))) := by
  refine knownAction_issue ?_
  rw [decodeCmd_setdWord]
  obtain ⟨n, rfl⟩ := Int.eq_ofNat_of_zero_le h0
  refine .inr ?_
  rw [BitVec.ofInt_natCast, BitVec.toNat_ofNat]
  omega

theorem knownAction_digitCalls (v : Nat) : ∀ a ∈ digitCalls v, KnownAction a := by
  intro a ha
  rw [digitCalls_eq_map] at ha
  obtain ⟨i, -, rfl⟩ := List.mem_map.mp ha
  exact fun _ _ => by omega

theorem knownAction_showDecimal (v : Nat) :
    ∀ a ∈ [.call (.powerOn 0), .call (.reset 0), issue 0x180#9] ++ digitCalls v ++ [.showWrite], KnownAction a := by
  intro a ha
  rcases List.mem_append.mp ha with h | h
  · rcases List.mem_append.mp h with h | h
    · simp only [List.mem_cons, List.not_mem_nil, or_false] at h
      rcases h with rfl | rfl | rfl
      · trivial
      · trivial
      · exact knownAction_issue trivial
    · exact knownAction_digitCalls v a h
  · rw [List.mem_singleton.mp h]
    trivial

/-- The host sequences put only known actions before the queue. -/
theorem Performs.knownQueue {s t : State} {a : Action} (h : Performs s a (.next t)) (ha : KnownAction a)
    (hs : KnownQueue s) : KnownQueue t := by
  cases h with
  | command h =>
    obtain ⟨-, -, htodo, -⟩ := exec_outside h
    unfold KnownQueue
    rwa [htodo]
  | setDigit hp hd =>
    refine KnownQueue.push hs fun b hb => ?_
    rw [List.mem_singleton.mp hb]
    exact knownAction_issue_setd hd.1 (ha hp.1 hp.2)
  | reset m =>
    refine KnownQueue.push hs fun b hb => ?_
    rcases List.mem_append.mp hb with h | h
    · exact knownAction_fillActions m b h
    · rw [List.mem_singleton.mp h]
      trivial
  | powerOn m => exact KnownQueue.push hs (by simp [KnownAction])
  | showDecimal v => exact KnownQueue.push hs (knownAction_showDecimal v)
  | setupSucceeds stage m later n => exact KnownQueue.push hs (knownAction_afterSetup stage m)
  | _ => exact hs

/-- Settles O29: a known SETD stores a table entry, and no host sequence issues an unknown one. -/
theorem slotsStayKnown : Obligations.SlotsStayKnown := by
  intro s t hs hq h
  refine ⟨step_keeps_slots (.inl rfl) (.inr (.inl rfl)) (fun w rest pos d p free htodo hdec hp => ?stored) hs h, ?queue⟩
  case stored =>
    have hmem : .edge false true w ∈ s.todo := htodo ▸ List.mem_cons_self
    have hknown : KnownCommand (decodeCmd w) := hq _ hmem rfl
    rw [hdec] at hknown
    have hd : d.toNat < 10 := hknown.resolve_left (by simp [hp])
    exact .inr (.inr ⟨_, by rw [encPattern_of_lt _ _ hd]⟩)
  case queue =>
    cases htodo : s.todo with
    | nil =>
      rw [step_nil htodo] at h
      cases h
      exact hq
    | cons a rest =>
      have hmem : ∀ b ∈ a :: rest, KnownAction b := htodo ▸ hq
      exact (performs_of_step htodo h).knownQueue (hmem a List.mem_cons_self)
        fun b hb => hmem b (List.mem_cons_of_mem a hb)

/-- Settles O30: the reset state's slots are `patNone`, its queue is empty. -/
theorem slotsKnownAtReset : Obligations.SlotsKnownAtReset :=
  ⟨fun p => .inl (State.slot_reset p), fun _ => nofun⟩

/-! ### Stops -/

/-- A stop has an action pending. -/
theorem exists_todo_of_stop {s : State} (h : ∀ t, step s ≠ .next t) : ∃ a rest, s.todo = a :: rest := by
  cases htodo : s.todo with
  | nil => exact absurd (step_nil htodo) (h _)
  | cons a rest => exact ⟨a, rest, rfl⟩

/-- Settles O34: the three outcomes of `Performs` that are no next state. -/
theorem stopsAreTheSpecsOwn : Obligations.StopsAreTheSpecsOwn := by
  refine fun s => ⟨fun f hf => ?fault, fun r hr => ?refused⟩
  case fault =>
    obtain ⟨a, rest, htodo⟩ := exists_todo_of_stop (s := s) (by simp [hf])
    cases performs_of_step htodo hf with
    | hangs ha => exact ⟨rfl, a, rest, htodo, ha⟩
  case refused =>
    obtain ⟨a, rest, htodo⟩ := exists_todo_of_stop (s := s) (by simp [hr])
    cases performs_of_step htodo hr with
    | negativeArgument hc => exact ⟨_, rest, htodo, .inl ⟨rfl, hc⟩⟩
    | digitHasNoEncoding hp hd => exact ⟨_, rest, htodo, .inr ⟨rfl, _, _, rfl, hp.1, hp.2, hd⟩⟩

/-! ### DS and LSV -/

/-- `DS` after a `powerOn` that succeeded with a mode that is neither NONE nor ALL is one of the powered states. -/
theorem displayAfterPowerOn_ne_off {m st : Int} (hst : 0 ≤ st) (h0 : m ≠ 0) (h1 : m ≠ 1) (n : Nat) :
    displayAfterPowerOn m st n ≠ .off := by
  have hpowered : ∀ k, poweredState k ≠ .off := by decide
  rw [displayAfterPowerOn, statusFails_of_nonneg hst, if_neg (by decide), if_neg h0, if_neg h1]
  exact hpowered _

theorem displayAfterPowerOn_none {st : Int} (hst : 0 ≤ st) (n : Nat) : displayAfterPowerOn 0 st n = .showNone := by
  simp [displayAfterPowerOn, statusFails_of_nonneg hst]

theorem displayAfterPowerOn_all {st : Int} (hst : 0 ≤ st) (n : Nat) : displayAfterPowerOn 1 st n = .showAll := by
  simp [displayAfterPowerOn, statusFails_of_nonneg hst]

theorem displayAfterPowerOff_of_nonneg {st : Int} (hst : 0 ≤ st) (old : DisplayState) :
    displayAfterPowerOff st old = .off := by
  simp [displayAfterPowerOff, statusFails_of_nonneg hst]

theorem displayAfterPowerOff_of_neg {st : Int} (hst : st < 0) (old : DisplayState) :
    displayAfterPowerOff st old = old := by
  simp [displayAfterPowerOff, statusFails_of_neg hst]

theorem displayAfterShow_of_nonneg {st : Int} (hst : 0 ≤ st) (n : Nat) : displayAfterShow st n = .showValue := by
  simp [displayAfterShow, statusFails_of_nonneg hst]

/-- The actions that can change DS. -/
theorem Performs.ds_eq_or {s t : State} {a : Action} (h : Performs s a (.next t)) :
    t.ds = s.ds ∨ (∃ valid w, a = .edge true valid w) ∨ a = .showWrite ∨ a = .call .powerOff ∨
      (∃ m, a = .powerOnWrite m) ∨ ∃ stage m, a = .setup stage m := by
  cases h with
  | command h =>
    obtain ⟨-, hds, -⟩ := exec_outside h
    exact .inl hds
  | hardwareReset | showWrite | powerOff | powerOnWrite | setupFails => simp
  | _ => exact .inl rfl

/-- The actions that can change LSV. -/
theorem Performs.lsv_eq_or {s t : State} {a : Action} (h : Performs s a (.next t)) :
    t.lsv = s.lsv ∨ (∃ valid w, a = .edge true valid w) ∨ a = .clearLsv ∨ a = .showWrite := by
  cases h with
  | command h =>
    obtain ⟨hlsv, -⟩ := exec_outside h
    exact .inl hlsv
  | hardwareReset | clearLsv | showWrite => simp
  | _ => exact .inl rfl

/-- Settles O35: `Performs` at each of the four actions with a row in R111, and `Performs.ds_eq_or` for all others. -/
theorem displayStateTransitions : Obligations.DisplayStateTransitions := by
  refine ⟨fun m st hst => ⟨?none, ?all, fun n h0 h1 => displayAfterPowerOn_ne_off hst h0 h1 n⟩,
    fun s rest t h hstep => ?powerOff, fun s rest m t h hstep => ?powerOnWrite,
    fun s rest stage m t h hstep => ?setup, fun s rest t h hstep => ?showWrite,
    fun s a rest t h hstep hne => (performs_of_step h hstep).ds_eq_or.resolve_left hne⟩
  case none =>
    rintro n rfl
    exact displayAfterPowerOn_none hst n
  case all =>
    rintro n rfl
    exact displayAfterPowerOn_all hst n
  case powerOff =>
    cases performs_of_step h hstep with
    | powerOff st later n =>
      exact ⟨st, rfl, fun hst => displayAfterPowerOff_of_nonneg hst _, fun hst => displayAfterPowerOff_of_neg hst _⟩
  case powerOnWrite =>
    cases performs_of_step h hstep with
    | powerOnWrite _ st later n => exact ⟨st, n, rfl, rfl⟩
  case setup =>
    cases performs_of_step h hstep with
    | setupFails _ _ hst later n => exact .inr ⟨_, n, hst, rfl, rfl⟩
    | setupSucceeds => exact .inl rfl
  case showWrite =>
    cases performs_of_step h hstep with
    | showWrite st later n => exact ⟨st, rfl, fun hst => displayAfterShow_of_nonneg hst n⟩

/-- Settles O36: `Performs` at the three actions that write LSV, and `Performs.lsv_eq_or` for all others. -/
theorem lsvTransitions : Obligations.LsvTransitions := by
  refine ⟨fun s rest valid w t h hstep => ?reset, fun s rest t h hstep => ?clearLsv,
    fun s rest t h hstep => ?showWrite, fun s a rest t h hstep hreset hclear hshow => ?others⟩
  case reset => cases performs_of_step h hstep with | hardwareReset => rfl
  case clearLsv => cases performs_of_step h hstep with | clearLsv => rfl
  case showWrite => cases performs_of_step h hstep with | showWrite st later n => exact ⟨n, rfl⟩
  case others =>
    rcases (performs_of_step h hstep).lsv_eq_or with e | ⟨valid, w, e⟩ | e | e
    · exact e
    · exact absurd e (hreset valid w)
    · exact absurd e hclear
    · exact absurd e hshow

end Sys2Proof.Machine
end

section
/-!
No action reads LSV or DS (R25, R26, R111). Both are shown at once: a state with other values of the two fields goes through the
same actions to a state that differs in the two fields alone, and in neither of them if it did not differ there before.
-/
namespace Sys2Proof.Machine

/-- The state with these values of LSV and DS. -/
def State.withHostFields (s : State) (b : Bool) (d : DisplayState) : State := { s with lsv := b, ds := d }

/-- `u` is `t` but for LSV and DS; where `p` holds they agree in LSV too, where `q` holds in DS too. -/
def SameButHostFields (p q : Prop) (t u : State) : Prop :=
  u = t.withHostFields u.lsv u.ds ∧ (p → u.lsv = t.lsv) ∧ (q → u.ds = t.ds)

theorem SameButHostFields.refl (p q : Prop) (t : State) : SameButHostFields p q t t :=
  ⟨rfl, fun _ => rfl, fun _ => rfl⟩

/-- Two outcomes of the same kind: next states that are so related, or the same stop. -/
inductive OutcomesAgree (R : State → State → Prop) : Result → Result → Prop where
  | next {t u : State} (h : R t u) : OutcomesAgree R (.next t) (.next u)
  | fault (f : Fault) : OutcomesAgree R (.fault f) (.fault f)
  | refused (r : Refusal) : OutcomesAgree R (.refused r) (.refused r)

theorem OutcomesAgree.ite {R : State → State → Prop} {c : Prop} [Decidable c] {x x' y y' : Result}
    (hx : OutcomesAgree R x x') (hy : OutcomesAgree R y y') :
    OutcomesAgree R (if c then x else y) (if c then x' else y') := by
  split
  · exact hx
  · exact hy

/-- The transport's answer does not depend on LSV or DS. -/
theorem OutcomesAgree.transact {R : State → State → Prop} {s : State} {b : Bool} {d : DisplayState}
    {c : TransportCall} {k k' : Int → Byte → State → Result}
    (hk : ∀ st byte later n, OutcomesAgree R (k st byte (s.afterCall c later n))
      (k' st byte ((s.withHostFields b d).afterCall c later n))) :
    OutcomesAgree R (s.transact c k) ((s.withHostFields b d).transact c k') := by
  have htake : ((s.withHostFields b d).logCall c).takeAnswer =
      ((s.logCall c).takeAnswer.1, (s.logCall c).takeAnswer.2.withHostFields b d) := by
    unfold State.takeAnswer
    cases h : s.answers <;> simp [State.withHostFields, State.logCall, h]
  have hframe := State.takeAnswer_frame (s.logCall c)
  unfold State.transact
  rw [htake]
  split
  next st byte t h =>
    rw [h] at hframe ⊢
    have ht : t = s.afterCall c t.answers t.draws := hframe
    rw [ht]
    exact hk st byte _ _
  next t h =>
    rw [h]
    exact .fault _

section
variable {p q : Prop} {s : State} {b : Bool} {d : DisplayState} (hb : p → b = s.lsv) (hd : q → d = s.ds)
include hb hd

theorem exec_agrees (i : Instr) :
    OutcomesAgree (SameButHostFields p q) (exec i s) (exec i (s.withHostFields b d)) := by
  obtain ⟨t, ht⟩ := exec_ready i s
  obtain ⟨hlsv, hds, -⟩ := exec_outside ht
  have hu : exec i (s.withHostFields b d) = .next (t.withHostFields b d) := by
    cases i with
    | nop | clrc | enc | dec => cases ht; rfl
    | fill m =>
      cases ht
      cases hm : fillPattern m with
      | none => rw [exec_fill, State.fill_of_none hm, State.fill_of_none hm]
      | some v => rw [exec_fill, State.fill_of_some hm, State.fill_of_some hm]; rfl
    | setd pos dg =>
      cases ht
      rw [exec_setd]
      cases hp : writeDecoder pos with
      | none => rw [State.storeDigit_of_none hp, State.storeDigit_of_none hp]
      | some p =>
        simp only [State.storeDigit, hp]
        cases p <;> rfl
  rw [ht, hu]
  exact .next ⟨rfl, fun h => (hb h).trans hlsv.symm, fun h => (hd h).trans hds.symm⟩

theorem call_agrees (c : HostCall) :
    OutcomesAgree (SameButHostFields p q) (hostCall c s) (hostCall c (s.withHostFields b d)) := by
  cases c with
  | digitCount v => exact .ite (.refused _) (.next ⟨rfl, hb, hd⟩)
  | digitAt v i =>
    refine .ite (.refused _) ?_
    split <;> exact .next ⟨rfl, hb, hd⟩
  | setDigit dg i => exact .ite (.ite (.next ⟨rfl, hb, hd⟩) (.refused _)) (.next ⟨rfl, hb, hd⟩)
  | reset m => exact .next ⟨rfl, hb, hd⟩
  | powerOn m => exact .next ⟨rfl, hb, hd⟩
  | powerOff =>
    exact .transact fun st _ _ _ => .next ⟨rfl, hb, fun h => congrArg (displayAfterPowerOff st) (hd h)⟩
  | showDecimal v => exact .ite (.refused _) (.next ⟨rfl, hb, hd⟩)
  | readDecimal => exact .transact fun _ _ _ _ => .ite (.next ⟨rfl, hb, hd⟩) (.next ⟨rfl, hb, hd⟩)

theorem perform_agrees (a : Action) :
    OutcomesAgree (SameButHostFields p q) (perform a s) (perform a (s.withHostFields b d)) := by
  cases a with
  | edge rst valid w =>
    cases rst with
    | true => exact .next (SameButHostFields.refl p q _)
    | false => cases valid with
      | true => exact exec_agrees hb hd (decodeCmd w)
      | false => exact exec_agrees hb hd .nop
  | encDigit dg => exact exec_agrees hb hd (.enc dg)
  | decByte byte => exact exec_agrees hb hd (.dec byte)
  | frame => exact .transact fun _ _ _ _ => .next ⟨rfl, hb, hd⟩
  | call c => exact call_agrees hb hd c
  | setup stage m =>
    exact .transact fun _ _ _ _ => .ite (.next ⟨rfl, hb, fun _ => rfl⟩) (.next ⟨rfl, hb, hd⟩)
  | powerOnWrite m => exact .transact fun _ _ _ _ => .next ⟨rfl, hb, fun _ => rfl⟩
  | showWrite => exact .transact fun _ _ _ _ => .next ⟨rfl, fun _ => rfl, fun _ => rfl⟩
  | clearLsv => exact .next ⟨rfl, fun _ => rfl, hd⟩

theorem step_agrees : OutcomesAgree (SameButHostFields p q) (step s) (step (s.withHostFields b d)) := by
  cases h : s.todo with
  | nil =>
    rw [step_nil h, step_nil (s := s.withHostFields b d) h]
    exact .next ⟨rfl, hb, hd⟩
  | cons a rest =>
    rw [step_cons h, step_cons (s := s.withHostFields b d) h]
    exact perform_agrees (s := { s.tick with todo := rest }) hb hd a

end

/-- Agreeing outcomes, one kind at a time. -/
theorem OutcomesAgree.by_kind {R R' : State → State → Prop} {x y : Result} (h : OutcomesAgree R x y)
    (hR : ∀ t u, R t u → R' u t) :
    (∀ t, x = .next t → ∃ u, y = .next u ∧ R' u t) ∧ (∀ r, x = .fault r → y = .fault r) ∧
      (∀ r, x = .refused r → y = .refused r) := by
  cases h with
  | next h => exact ⟨fun t e => ⟨_, rfl, by cases e; exact hR _ _ h⟩, nofun, nofun⟩
  | fault f => exact ⟨nofun, fun r e => by cases e; rfl, nofun⟩
  | refused r => exact ⟨nofun, nofun, fun r e => by cases e; rfl⟩

/-- Settles O32: `step_agrees` with another LSV and the same DS. -/
theorem lsvIsNeverRead : Obligations.LsvIsNeverRead := by
  intro s b
  have h := step_agrees (p := False) (q := True) (s := s) (b := b) (d := s.ds) nofun fun _ => rfl
  refine h.by_kind fun t u ⟨hu, _, hds⟩ => ?_
  rw [hds trivial] at hu
  rw [hu]
  rfl

/-- Settles O33: `step_agrees` with another DS and the same LSV. -/
theorem dsIsNeverRead : Obligations.DsIsNeverRead := by
  intro s d
  have h := step_agrees (p := True) (q := False) (s := s) (b := s.lsv) (d := d) (fun _ => rfl) nofun
  refine h.by_kind fun t u ⟨hu, hlsv, _⟩ => ?_
  rw [hlsv trivial] at hu
  rw [hu]
  rfl

end Sys2Proof.Machine
end

section
/-! The host functions of one step (R72, R110, R112, R114), and host `setDigit` and `reset` (R105, R106). -/
namespace Sys2Proof.Machine

/-- Settles O46: the read that fails, and the three-way reading of the byte otherwise. -/
theorem readDecimalThreeWays : Obligations.ReadDecimalThreeWays := by
  intro s rest st b later h ha
  by_cases hst : st < 0
  · exact ⟨_, step_readDecimal_fails h ha hst, fun _ => ⟨rfl, rfl⟩, fun _ h0 => absurd hst (Int.not_lt.mpr h0),
      fun h0 => absurd hst (Int.not_lt.mpr h0), rfl, fun _ => rfl, rfl, rfl, rfl, rfl⟩
  · refine ⟨_, step_readDecimal_ok h ha (Int.not_lt.mp hst), fun hneg => absurd hneg hst, fun d _ hd => ?digit,
      fun _ hne => ?unknown, rfl, fun _ => rfl, rfl, rfl, rfl, rfl⟩
    case digit =>
      simp only [decPattern_of_some ((decDigit_eq_some _ b d).mpr hd), readResult, BitVec.toNat_ofNat]
      rw [Nat.mod_eq_of_lt (by omega)]
    case unknown => simp only [decPattern_of_ne hne, readResult]

/-- Settles O47: the one step of the frame action. -/
theorem frameActionSendsSnapshot : Obligations.FrameActionSendsSnapshot := by
  intro s rest st b later h ha
  exact ⟨_, step_frame h ha, rfl, rfl, fun _ => rfl, rfl, rfl, rfl, rfl⟩

/-- Settles O48: each of the three calls tests its arguments first. -/
theorem negativeArgumentsAreRefused : Obligations.NegativeArgumentsAreRefused := by
  intro s rest v i hv
  refine ⟨fun h => ?_, fun h => ?_, fun h => ?_, fun h => ?_⟩ <;> rw [step_cons h]
  · exact if_pos hv
  · exact if_pos hv
  · exact if_pos (.inl hv)
  · exact if_pos (.inr hv)

/-- Settles O49: each of the actions is a transport call, and `State.transact_never`. -/
theorem silentTransportHangsTheHost : Obligations.SilentTransportHangsTheHost := by
  intro s rest later a h ha hcall
  have hnever (c : TransportCall) (k : Int → Byte → State → Result) :
      ({ s.tick with todo := rest } : State).transact c k = .fault .transportHang :=
    State.transact_never (s := { s.tick with todo := rest }) ha c k
  rw [step_cons h]
  rcases hcall with rfl | rfl | rfl | rfl | ⟨m, rfl⟩ | ⟨stage, m, rfl⟩ <;> exact hnever _ _

theorem State.storeDigit_result (T : SegTable) (s : State) (r : HostResult) (pos : PosBits) (d : DigitBits) :
    State.storeDigit T { s with result := r } pos d = { s.storeDigit T pos d with result := r } := by
  cases hp : writeDecoder pos with
  | none => rw [State.storeDigit_of_none hp, State.storeDigit_of_none hp]
  | some p =>
    simp only [State.storeDigit, hp]
    cases p <;> rfl

/-- The two steps of `setDigit` to a position 1..5 with a digit 0..15. -/
theorem run_setDigit {s : State} {rest : List Action} {d p : Int} {pos : PosBits} {digit : DigitBits}
    (h : s.todo = .call (.setDigit d p) :: rest) (hp : p = pos.toNat) (hd : d = digit.toNat) (h1 : 1 ≤ p) (h5 : p ≤ 5) :
    runSteps 2 s = .next
      { State.storeDigit Config.segTable { s with todo := rest, draws := s.draws + 2 } pos digit with
        result := .nothing } := by
  rw [runSteps_succ 1 (step_setDigit h hp hd h1 h5), runSteps_succ 0 (step_setd rfl), ← State.storeDigit_result]
  rfl

theorem step_setDigit_refused {s : State} {rest : List Action} {d p : Int}
    (h : s.todo = .call (.setDigit d p) :: rest) (h1 : 1 ≤ p) (h5 : p ≤ 5) (hd : d < 0 ∨ 15 < d) :
    step s = .refused .digitHasNoEncoding := by
  rw [step_cons h]
  exact (if_pos ⟨h1, h5⟩).trans (if_neg (by omega))

/-- Settles O39: the three cases of the position and the digit. -/
theorem hostSetDigit : Obligations.HostSetDigit := by
  intro s rest d p h
  refine ⟨fun pos digit hp hd h1 h5 => ?issued, fun hp => step_setDigit_ignored h hp,
    fun h1 h5 hd => step_setDigit_refused h h1 h5 hd⟩
  obtain ⟨hlsv, hds, -, -, htodo, -, hcalls, -⟩ :=
    State.sameOutside_storeDigit Config.segTable { s with todo := rest, draws := s.draws + 2 } pos digit
  exact ⟨_, _, exec_setd pos digit _, run_setDigit h hp hd h1 h5, rfl, hcalls.symm, hlsv.symm, hds.symm, htodo.symm⟩

/-! ### Runs, and the FILL of a blank mode -/

/-- A step, then the rest of the run. -/
theorem runSteps_cons {s t : State} {k : Nat} {r : Result} (h : step s = .next t) (hr : runSteps k t = r) :
    runSteps (k + 1) s = r :=
  (runSteps_succ k h).trans hr

/-- `t` is reached from `s` by some run. -/
def Reaches (s t : State) : Prop := ∃ k, runSteps k s = .next t

theorem Reaches.refl (s : State) : Reaches s s := ⟨0, rfl⟩

theorem Reaches.trans {s t u : State} (h : Reaches s t) (h' : Reaches t u) : Reaches s u := by
  obtain ⟨j, hj⟩ := h
  obtain ⟨k, hk⟩ := h'
  exact ⟨j + k, (runSteps_add k hj).trans hk⟩

theorem Reaches.head {s t u : State} (h : step s = .next t) (h' : Reaches t u) : Reaches s u := by
  obtain ⟨k, hk⟩ := h'
  exact ⟨k + 1, runSteps_cons h hk⟩

/-- The slots after a FILL of a blank mode given as a number (R106): only NONE and ALL write. -/
def FilledBy (m : Int) (s t : State) : Prop :=
  (m = 0 → ∀ p, t.slot p = 0x00#8) ∧ (m = 1 → ∀ p, t.slot p = 0x7F#8) ∧ (m ≠ 0 → m ≠ 1 → SameSlots s t)

/-- The FILL of a mode that fits the field. -/
theorem filledBy_fill {m : Int} (s : State) (h0 : 0 ≤ m) (h3 : m ≤ 3) : FilledBy m s (s.fill (BitVec.ofInt 2 m)) := by
  refine ⟨?_, ?_, fun hne0 hne1 p => ?_⟩
  · rintro rfl p
    exact s.slot_fill 0#2 p
  · rintro rfl p
    exact s.slot_fill 1#2 p
  · have hnone : fillPattern (BitVec.ofInt 2 m) = none := by
      obtain rfl | rfl : m = 2 ∨ m = 3 := by omega
      · rfl
      · rfl
    rw [State.fill_of_none hnone]

/-- The commands by which the host fills with a blank mode: one FILL, or none. -/
theorem reaches_fillActions {s : State} {m : Int} {rest : List Action} (h : s.todo = fillActions m ++ rest) :
    ∃ t, Reaches s t ∧ FilledBy m s t ∧ SameOutside { s with todo := rest } t := by
  by_cases hm : 0 ≤ m ∧ m ≤ 3
  · rw [fillActions, if_pos hm] at h
    exact ⟨_, .head (step_fill h) (.refl _), filledBy_fill { s with draws := s.draws + 1, todo := rest } hm.1 hm.2,
      State.sameOutside_fill { s with draws := s.draws + 1, todo := rest } _⟩
  · rw [fillActions, if_neg hm] at h
    refine ⟨s, .refl s, ⟨?_, ?_, fun _ _ _ => rfl⟩, ?_⟩
    · omega
    · omega
    · obtain rfl : rest = s.todo := h.symm
      exact SameOutside.refl s

/-- Settles O40: the call queues the FILL and the clearing of LSV, and both are run. -/
theorem hostResetFillsAndClearsLsv : Obligations.HostResetFillsAndClearsLsv := by
  intro s rest m h
  obtain ⟨t, hrun, hfill, hout⟩ :=
    reaches_fillActions (s := { s with
      draws := s.draws + 1
      todo := fillActions m ++ .clearLsv :: rest
      result := .nothing }) rfl
  obtain ⟨-, hds, henc, hdec, htodo, hans, hcalls, hres⟩ := hout
  obtain ⟨k, hk⟩ := Reaches.head (step_reset h) (hrun.trans (.head (step_clearLsv htodo.symm) (.refl _)))
  obtain ⟨hnone, hall, hother⟩ := hfill
  exact ⟨k, _, hk, rfl, hnone, hall, hother, rfl, hds, henc, hdec, rfl, hans, hcalls, hres⟩

end Sys2Proof.Machine
end

section
/-! Host `powerOn` (R107): the three setup writes, the paths on which one of them fails, and the path on which all succeed. -/
namespace Sys2Proof.Machine

/-- Settles O41: the setup writes that succeed, then the one that fails. -/
theorem powerOnStopsAtFirstFailure : Obligations.PowerOnStopsAtFirstFailure := by
  intro s rest m s1 s2 s3 b1 b2 b3 later h
  refine ⟨fun h1 ha => ?first, fun h1 h2 ha => ?second, fun h1 h2 h3 ha => ?third⟩
  case first =>
    exact ⟨_, runSteps_cons (step_powerOn h) (runSteps_cons (step_setup_fails rfl ha h1) rfl),
      rfl, fun _ => rfl, rfl, rfl, rfl, rfl⟩
  case second =>
    refine ⟨_, runSteps_cons (step_powerOn h) (runSteps_cons (step_setup_ok rfl ha h1)
      (runSteps_cons (step_setup_fails rfl rfl h2) rfl)), rfl, fun _ => rfl, rfl, rfl, rfl, ?_⟩
    simp [setupCommand]
  case third =>
    refine ⟨_, runSteps_cons (step_powerOn h) (runSteps_cons (step_setup_ok rfl ha h1)
      (runSteps_cons (step_setup_ok rfl rfl h2) (runSteps_cons (step_setup_fails rfl rfl h3) rfl))),
      rfl, fun _ => rfl, rfl, rfl, rfl, ?_⟩
    simp [setupCommand]

/-- The state after the three setup writes of `powerOn m`, with the FILL and the final write still to do. -/
def State.afterSetupWrites (s : State) (m : Int) (rest : List Action) (later : List TransportAnswer) : State :=
  { s with
    draws := s.draws + 4
    todo := fillActions m ++ .powerOnWrite m :: rest
    answers := later
    calls := s.calls ++ [busCommandCall .oscOn, busCommandCall .blinkOff, busCommandCall .brightness] }

theorem reaches_afterSetupWrites {s : State} {rest : List Action} {m s1 s2 s3 : Int} {b1 b2 b3 : Byte}
    {later : List TransportAnswer} (h : s.todo = .call (.powerOn m) :: rest)
    (ha : s.answers = .returns s1 b1 :: .returns s2 b2 :: .returns s3 b3 :: later)
    (h1 : 0 ≤ s1) (h2 : 0 ≤ s2) (h3 : 0 ≤ s3) : Reaches s (s.afterSetupWrites m rest later) := by
  refine .head (step_powerOn h) (.head (step_setup_ok rfl ha h1) (.head (step_setup_ok rfl rfl h2)
    (.head (step_setup_ok rfl rfl h3) ⟨0, ?_⟩)))
  simp [runSteps, State.afterSetupWrites, afterSetup, setupCommand]

/-- Settles O42: the setup writes, the FILL, and the final write of the frame that the FILL left. -/
theorem powerOnFillsAndSendsFrame : Obligations.PowerOnFillsAndSendsFrame := by
  intro s rest m s1 s2 s3 s4 b1 b2 b3 b4 later h h1 h2 h3 ha
  have hsetup := reaches_afterSetupWrites h ha h1 h2 h3
  obtain ⟨u, hfillrun, hfill, hout⟩ :=
    reaches_fillActions (s := s.afterSetupWrites m rest (.returns s4 b4 :: later)) rfl
  obtain ⟨hlsv, -, -, -, htodo, hans, hcalls, -⟩ := hout
  have hwrite := step_powerOnWrite htodo.symm hans.symm
  obtain ⟨k, hk⟩ := hsetup.trans (hfillrun.trans (.head hwrite (.refl _)))
  obtain ⟨hnone, hall, hother⟩ := hfill
  refine ⟨k, _, hk, rfl, hnone, hall, hother, hlsv.symm, rfl, rfl, ?calls, ?showNone, ?showAll⟩
  case calls =>
    simp only [← hcalls]
    exact List.append_assoc _ _ _
  case showNone =>
    rintro h4 rfl
    exact displayAfterPowerOn_none h4 _
  case showAll =>
    rintro h4 rfl
    exact displayAfterPowerOn_all h4 _

end Sys2Proof.Machine
end

section
/-! Host `showDecimal` (R109, R110): the drawing of the digits, and what follows its power-on, whether that succeeds or not. -/
namespace Sys2Proof.Machine

/-- What is stored for the digit at decimal place `i` of the value. -/
def digitByte (v i : Nat) : Byte := zext8 (Config.segTable.pat ⟨v / 10 ^ i % 10, Nat.mod_lt _ (by omega)⟩)

/-- `t` is `s` with the digits of these places drawn and the queue at `rest`; nothing is said of the result. -/
def Draws (v : Nat) (places : List Nat) (rest : List Action) (s t : State) : Prop :=
  (∀ p, t.slot p = if posNumber p - 1 ∈ places then digitByte v (posNumber p - 1) else s.slot p) ∧
    SameOutside { s with todo := rest, result := t.result } t

theorem Draws.nil {v : Nat} {rest : List Action} {s : State} (h : s.todo = rest) : Draws v [] rest s s := by
  subst h
  exact ⟨fun _ => rfl, SameOutside.refl s⟩

/-- Drawing some places and then others; a place drawn twice gets the same digit. -/
theorem Draws.append {v : Nat} {places places' : List Nat} {rest rest' : List Action} {s t u : State}
    (h : Draws v places rest s t) (h' : Draws v places' rest' t u) : Draws v (places ++ places') rest' s u := by
  obtain ⟨hslot, hlsv, hds, henc, hdec, -, hans, hcalls, -⟩ := h
  obtain ⟨hslot', hlsv', hds', henc', hdec', htodo', hans', hcalls', -⟩ := h'
  refine ⟨fun p => ?_, hlsv.trans hlsv', hds.trans hds', henc.trans henc', hdec.trans hdec', htodo',
    hans.trans hans', hcalls.trans hcalls', rfl⟩
  rw [hslot', hslot]
  by_cases h : posNumber p - 1 ∈ places <;> by_cases h' : posNumber p - 1 ∈ places' <;> simp [h, h']

/-- SETD of the digit at a place draws the position of that place. -/
theorem slot_storeDigit_place {v i : Nat} {pos : PosBits} {d : DigitBits} (hpos : pos.toNat = i + 1) (hi : i < 5)
    (hd : d.toNat = v / 10 ^ i % 10) (s : State) (q : Pos) :
    (s.storeDigit Config.segTable pos d).slot q =
      if posNumber q - 1 ∈ [i] then digitByte v (posNumber q - 1) else s.slot q := by
  have hq : 1 ≤ posNumber q := by cases q <;> decide
  by_cases hw : writeDecoder pos = some q
  · have hqi : posNumber q - 1 = i := by
      have := (writeDecoder_eq_some pos q).mp hw
      omega
    rw [State.slot_storeDigit_self hw, encPattern_of_lt _ _ (by omega), if_pos (by simp [hqi]), hqi]
    simp only [hd]
    rfl
  · have hqi : posNumber q - 1 ≠ i := fun e => hw ((writeDecoder_eq_some pos q).mpr (by omega))
    rw [State.slot_storeDigit_of_ne hw, if_neg (by simp [hqi])]

/-- One place is drawn: its position's slot, or nothing beyond the fifth. -/
theorem reaches_digitCall {s : State} {v i : Nat} {rest : List Action} (h : s.todo = digitCall v i :: rest) :
    ∃ t, Reaches s t ∧ Draws v [i] rest s t := by
  by_cases hi : i < 5
  · have hpos : (BitVec.ofNat 3 (i + 1)).toNat = i + 1 := by rw [BitVec.toNat_ofNat]; omega
    have hdigit : (BitVec.ofNat 4 (v / 10 ^ i % 10)).toNat = v / 10 ^ i % 10 := by rw [BitVec.toNat_ofNat]; omega
    have hrun := run_setDigit h (by rw [hpos]) (by rw [hdigit]) (by omega) (by omega)
    obtain ⟨hlsv, hds, henc, hdec, htodo, hans, hcalls, -⟩ :=
      State.sameOutside_storeDigit Config.segTable { s with todo := rest, draws := s.draws + 2 }
        (BitVec.ofNat 3 (i + 1)) (BitVec.ofNat 4 (v / 10 ^ i % 10))
    exact ⟨_, ⟨2, hrun⟩, slot_storeDigit_place hpos hi hdigit { s with todo := rest, draws := s.draws + 2 },
      hlsv, hds, henc, hdec, htodo, hans, hcalls, rfl⟩
  · refine ⟨_, .head (step_setDigit_ignored h (by omega)) (.refl _), fun q => (if_neg ?_).symm, SameOutside.refl _⟩
    have hq : posNumber q ≤ 5 := by cases q <;> decide
    rw [List.mem_singleton]
    omega

theorem reaches_digitCalls {v : Nat} {rest : List Action} (places : List Nat) {s : State}
    (h : s.todo = places.map (digitCall v) ++ rest) : ∃ t, Reaches s t ∧ Draws v places rest s t := by
  induction places generalizing s with
  | nil => exact ⟨s, .refl s, .nil h⟩
  | cons i places ih =>
    obtain ⟨u, hu, hdraws⟩ := reaches_digitCall h
    have htodo : u.todo = places.map (digitCall v) ++ rest := by
      obtain ⟨-, -, -, -, -, htodo, -⟩ := hdraws
      exact htodo.symm
    obtain ⟨t, ht, hdraws'⟩ := ih htodo
    exact ⟨t, hu.trans ht, hdraws.append hdraws'⟩

/-- What position `p` shows of the value (R109, R110). -/
def shownByte (v : Nat) (p : Pos) : Byte :=
  if posNumber p - 1 ∈ drawnPlaces v then digitByte v (posNumber p - 1) else 0x00#8

/-- The value 10 draws no place (S10). -/
theorem shownByte_ten (p : Pos) : shownByte 10 p = 0x00#8 := if_neg List.not_mem_nil

theorem shownByte_of_ne {v : Nat} (h : v ≠ 10) (p : Pos) :
    shownByte v p =
      if posNumber p = 1 ∨ 10 ^ (posNumber p - 1) ≤ v then digitByte v (posNumber p - 1) else 0x00#8 :=
  if_congr (mem_drawnPlaces h p) rfl rfl

/-- The state after the first step of `showDecimal` (R109): its whole sequence is queued. -/
def State.begunShowDecimal (s : State) (v : Nat) (rest : List Action) : State :=
  { s with
    draws := s.draws + 1
    todo := .call (.powerOn 0) :: .call (.reset 0) :: issue 0x180#9 :: (digitCalls v ++ .showWrite :: rest) }

/-- `showDecimal` from the end of its power-on: the slots are blanked, the digits drawn, the frame sent. -/
theorem reaches_end_of_showDecimal {s : State} {v : Nat} {st : Int} {b : Byte} {rest : List Action}
    {later : List TransportAnswer}
    (h : s.todo = .call (.reset 0) :: issue 0x180#9 :: (digitCalls v ++ .showWrite :: rest))
    (ha : s.answers = .returns st b :: later) :
    ∃ t, Reaches s t ∧ t.todo = rest ∧ t.result = .status st ∧ t.answers = later ∧ (∀ p, t.slot p = shownByte v p) ∧
      t.calls = s.calls ++ [.write Config.displayAddress t.frame 10] ∧ (0 ≤ st → t.ds = .showValue) := by
  obtain ⟨k, u, hreset, -, hblank, -, -, -, -, -, -, hutodo, huans, hucalls, -⟩ := hostResetFillsAndClearsLsv s _ 0 h
  have hclrc := step_clrc hutodo.symm
  obtain ⟨w, hdraw, hslot, -, -, -, -, hwtodo, hwans, hwcalls, -⟩ :=
    reaches_digitCalls (v := v) (rest := .showWrite :: rest) (drawnPlaces v)
      (s := { u with draws := u.draws + 1, todo := digitCalls v ++ .showWrite :: rest })
      (congrArg (· ++ Action.showWrite :: rest) (digitCalls_eq_map v))
  have hwrite := step_showWrite hwtodo.symm (hwans.symm.trans (huans.symm.trans ha))
  refine ⟨_, Reaches.trans ⟨k, hreset⟩ (.head hclrc (hdraw.trans (.head hwrite (.refl _)))), rfl, rfl, rfl,
    fun p => ?slot, ?calls, fun hst => displayAfterShow_of_nonneg hst _⟩
  case slot =>
    refine (hslot p).trans ?_
    rw [shownByte, ← hblank rfl p]
    rfl
  case calls =>
    have hcalls : w.calls = s.calls := hwcalls.symm.trans hucalls.symm
    simp only [hcalls]
    rfl

theorem State.frame_of_blank {s : State} (h : ∀ p, s.slot p = 0x00#8) : s.frame = List.replicate 10 0x00#8 := by
  have hfb : s.fb = State.reset.fb := funext fun i => State.fb_congr (fun p => (h p).trans (State.slot_reset p).symm) i
  rw [State.frame, hfb]
  rfl

/-- Settles O44: the power-on of O42 with mode NONE, then the rest of the sequence. -/
theorem showDecimalDrawsTheDigits : Obligations.ShowDecimalDrawsTheDigits := by
  intro s rest v s1 s2 s3 s4 s5 b1 b2 b3 b4 b5 later h h1 h2 h3 ha
  have hbegin : step s = .next (s.begunShowDecimal v rest) := step_showDecimal h
  obtain ⟨k, u, hon, -, hblank, -, -, -, hutodo, huans, hucalls, -⟩ :=
    powerOnFillsAndSendsFrame (s.begunShowDecimal v rest) _ 0 s1 s2 s3 s4 b1 b2 b3 b4 _ rfl h1 h2 h3 ha
  obtain ⟨t, hend, htodo, hres, hans, hslot, hcalls, hds⟩ := reaches_end_of_showDecimal hutodo huans
  obtain ⟨n, hrun⟩ := Reaches.head hbegin (.trans ⟨k, hon⟩ hend)
  refine ⟨n, t, hrun, htodo, hres, hans, ?ten, fun hne p => (hslot p).trans (shownByte_of_ne hne p), ?calls, hds⟩
  case ten =>
    rintro rfl p
    rw [hslot, shownByte_ten]
  case calls =>
    rw [hcalls, hucalls, State.frame_of_blank (hblank rfl)]
    exact List.append_assoc _ _ _

/-- The power-on of O41, whichever of its writes fails: the queue and the answers where it ends, and the calls made. -/
theorem reaches_failed_powerOn {s : State} {rest : List Action} {s1 s2 s3 st : Int} {b1 b2 b3 b : Byte}
    {later : List TransportAnswer} {made : List BusCommand} (h : s.todo = .call (.powerOn 0) :: rest)
    (hfail : (s1 < 0 ∧ s.answers = .returns s1 b1 :: .returns st b :: later ∧ made = [.oscOn]) ∨
      (0 ≤ s1 ∧ s2 < 0 ∧ s.answers = .returns s1 b1 :: .returns s2 b2 :: .returns st b :: later ∧
        made = [.oscOn, .blinkOff]) ∨
      (0 ≤ s1 ∧ 0 ≤ s2 ∧ s3 < 0 ∧
        s.answers = .returns s1 b1 :: .returns s2 b2 :: .returns s3 b3 :: .returns st b :: later ∧
        made = [.oscOn, .blinkOff, .brightness])) :
    ∃ t, Reaches s t ∧ t.todo = rest ∧ t.answers = .returns st b :: later ∧
      t.calls = s.calls ++ made.map busCommandCall := by
  obtain ⟨hfirst, hsecond, hthird⟩ :=
    powerOnStopsAtFirstFailure s rest 0 s1 s2 s3 b1 b2 b3 (.returns st b :: later) h
  rcases hfail with ⟨h1, ha, rfl⟩ | ⟨h1, h2, ha, rfl⟩ | ⟨h1, h2, h3, ha, rfl⟩
  · obtain ⟨t, hrun, -, -, -, htodo, hans, hcalls⟩ := hfirst h1 ha
    exact ⟨t, ⟨2, hrun⟩, htodo, hans, hcalls⟩
  · obtain ⟨t, hrun, -, -, -, htodo, hans, hcalls⟩ := hsecond h1 h2 ha
    exact ⟨t, ⟨3, hrun⟩, htodo, hans, hcalls⟩
  · obtain ⟨t, hrun, -, -, -, htodo, hans, hcalls⟩ := hthird h1 h2 h3 ha
    exact ⟨t, ⟨4, hrun⟩, htodo, hans, hcalls⟩

/-- Settles O45: the power-on that fails, then the rest of the sequence as after a success. -/
theorem showDecimalIgnoresFailedPowerOn : Obligations.ShowDecimalIgnoresFailedPowerOn := by
  intro s rest v s1 s2 s3 st b1 b2 b3 b later made h hfail
  have hbegin : step s = .next (s.begunShowDecimal v rest) := step_showDecimal h
  obtain ⟨u, hon, hutodo, huans, hucalls⟩ := reaches_failed_powerOn (s := s.begunShowDecimal v rest) rfl hfail
  obtain ⟨t, hend, htodo, hres, hans, hslot, hcalls, -⟩ := reaches_end_of_showDecimal hutodo huans
  obtain ⟨n, hrun⟩ := Reaches.head hbegin (hon.trans hend)
  refine ⟨n, t, hrun, htodo, hres, hans, ?ten, fun hne p => (hslot p).trans (shownByte_of_ne hne p), ?calls⟩
  case ten =>
    rintro rfl p
    rw [hslot, shownByte_ten]
  case calls =>
    rw [hcalls, hucalls]
    rfl

end Sys2Proof.Machine
end
